-- ==== Sys2Proof/Word.lean ====
section
/-! DEFINITION. The byte, the 32-bit word and the group of four (00_scope R7): a key-schedule word is four bytes, the
AES state matrix is four rows of four bytes. -/

namespace Sys2Proof

/-- A byte (00_scope R7). -/
abbrev Byte := BitVec 8

/-- A 32-bit register, command word or SHA-256 word (00_scope R7, 47_hash_port R311). -/
abbrev Word32 := BitVec 32

/-- Four like things in a fixed order, numbered 0 to 3. -/
structure Quad (α : Type) where
  x0 : α
  x1 : α
  x2 : α
  x3 : α
deriving DecidableEq, Repr

/-- Element `i` of a group of four. -/
def Quad.get {α : Type} (q : Quad α) : Fin 4 → α
  | 0 => q.x0
  | 1 => q.x1
  | 2 => q.x2
  | 3 => q.x3

/-- The group whose element `i` is `f i`. -/
def Quad.ofFn {α : Type} (f : Fin 4 → α) : Quad α := ⟨f 0, f 1, f 2, f 3⟩

/-- The four elements in order. -/
def Quad.toList {α : Type} (q : Quad α) : List α := [q.x0, q.x1, q.x2, q.x3]

end Sys2Proof
end

