-- ==== Sys2Proof/Syntax.lean ====
section
/-! DEFINITION. The 38 commands of 30_encoding R98, one constructor per row of the opcode table, with the operand
fields of R97 at their own widths, and the five formats of R91. -/

namespace Sys2Proof

/-- A command (30_encoding R98). Operand widths are the fields' (R97): A and B 8 bits, RIDX 4, KS 2, SHIFT 8. -/
inductive Instr where
  | gfmul (a b : Byte)
  | ldst
  | stst
  | subb
  | isubb
  | shrow
  | ishrow
  | mixc
  | imixc
  | ark (ridx : BitVec 4)
  | kexp (ks : BitVec 2)
  | kclr
  | rdrk (ridx : BitVec 4)
  | encb
  | decb
  | pad
  | unpadu
  | unpadv
  | hexe
  | hexd
  | u8chk
  | kdf (ks : BitVec 2)
  | aeste (ks : BitVec 2)
  | aestd (ks : BitVec 2)
  | aesfe (ks : BitVec 2)
  | aesfd (ks : BitVec 2)
  | caese (shift : Byte)
  | caesd (shift : Byte)
  | vkcln
  | vigte
  | vigtd
  | vigbe
  | vigbd
  | ksgen
  | kste
  | kstd
  | ksb
  | sniff
deriving DecidableEq, Repr

/-- The five formats (30_encoding R91). -/
inductive Format where
  | N
  | G
  | R
  | K
  | C
deriving DecidableEq, Repr

end Sys2Proof
end

