-- ==== Sys2Proof/WellFormed.lean ====
section
/-! DEFINITION. Which commands are well formed: those whose operand fields hold a value that R97 of 30_encoding calls
legal. Every command, well formed or not, has an encoding, decodes and runs (R100); one that is not well formed is
refused by its own check in every state, by taking the error that R97 names. That an operand fits its field needs no
check: the field's width is the operand's type. -/

namespace Sys2Proof

/-- The checks of 30_encoding R97: KS = 3 is no key size, RIDX = 15 is never legal, SHIFT is legal from 1 to 25. -/
def Instr.wellFormed : Instr → Bool
  | .gfmul _ _ => true
  | .ldst => true
  | .stst => true
  | .subb => true
  | .isubb => true
  | .shrow => true
  | .ishrow => true
  | .mixc => true
  | .imixc => true
  | .ark ridx => ridx.toNat ≤ 14
  | .kexp ks => ks.toNat ≤ 2
  | .kclr => true
  | .rdrk ridx => ridx.toNat ≤ 14
  | .encb => true
  | .decb => true
  | .pad => true
  | .unpadu => true
  | .unpadv => true
  | .hexe => true
  | .hexd => true
  | .u8chk => true
  | .kdf ks => ks.toNat ≤ 2
  | .aeste ks => ks.toNat ≤ 2
  | .aestd ks => ks.toNat ≤ 2
  | .aesfe ks => ks.toNat ≤ 2
  | .aesfd ks => ks.toNat ≤ 2
  | .caese shift => 1 ≤ shift.toNat && shift.toNat ≤ 25
  | .caesd shift => 1 ≤ shift.toNat && shift.toNat ≤ 25
  | .vkcln => true
  | .vigte => true
  | .vigtd => true
  | .vigbe => true
  | .vigbd => true
  | .ksgen => true
  | .kste => true
  | .kstd => true
  | .ksb => true
  | .sniff => true

end Sys2Proof
end

