-- ==== Sys2Proof/Decode.lean ====
section
/-! DEFINITION. The decoder of 30_encoding R106, total on every 32-bit word, the encoder written from the same formats
(R91) and opcode map (R98), and the reading of a row of the opcode table as a word. -/

namespace Sys2Proof

/-- Why a word is no command (30_encoding R106): its low byte is no opcode (R99), or a reserved bit is set (R100). -/
inductive DecodeFault where
  | badOpcode
  | reservedBits
deriving DecidableEq, Repr

/-- Bits 7:0, the opcode (30_encoding R90). -/
def opcField (w : Word32) : Byte := w.extractLsb' 0 8

/-- Field A, bits 15:8 (30_encoding R97). -/
def aField (w : Word32) : Byte := w.extractLsb' 8 8

/-- Field B, bits 23:16 (30_encoding R97). -/
def bField (w : Word32) : Byte := w.extractLsb' 16 8

/-- Field RIDX, bits 19:16 (30_encoding R97). -/
def ridxField (w : Word32) : BitVec 4 := w.extractLsb' 16 4

/-- Field KS, bits 9:8 (30_encoding R97). -/
def ksField (w : Word32) : BitVec 2 := w.extractLsb' 8 2

/-- Field SHIFT, bits 23:16 (30_encoding R97). -/
def shiftField (w : Word32) : Byte := w.extractLsb' 16 8

/-- The bits of a format that are not reserved: the opcode and the operand fields (30_encoding R106). -/
def Format.fieldMask : Format → Word32
  | .N => 0x000000FF#32
  | .G => 0x00FFFFFF#32
  | .R => 0x000F00FF#32
  | .K => 0x000003FF#32
  | .C => 0x00FF00FF#32

/-- The opcode map (30_encoding R98): the format of an opcode and the command with its operands taken from the word. -/
def rowOf (opc : Byte) (w : Word32) : Option (Format × Instr) :=
  match opc with
  | 0x01#8 => some (.G, .gfmul (aField w) (bField w))
  | 0x10#8 => some (.N, .ldst)
  | 0x11#8 => some (.N, .stst)
  | 0x12#8 => some (.N, .subb)
  | 0x13#8 => some (.N, .isubb)
  | 0x14#8 => some (.N, .shrow)
  | 0x15#8 => some (.N, .ishrow)
  | 0x16#8 => some (.N, .mixc)
  | 0x17#8 => some (.N, .imixc)
  | 0x18#8 => some (.R, .ark (ridxField w))
  | 0x20#8 => some (.K, .kexp (ksField w))
  | 0x21#8 => some (.N, .kclr)
  | 0x22#8 => some (.R, .rdrk (ridxField w))
  | 0x30#8 => some (.N, .encb)
  | 0x31#8 => some (.N, .decb)
  | 0x40#8 => some (.N, .pad)
  | 0x41#8 => some (.N, .unpadu)
  | 0x42#8 => some (.N, .unpadv)
  | 0x43#8 => some (.N, .hexe)
  | 0x44#8 => some (.N, .hexd)
  | 0x45#8 => some (.N, .u8chk)
  | 0x46#8 => some (.K, .kdf (ksField w))
  | 0x48#8 => some (.K, .aeste (ksField w))
  | 0x49#8 => some (.K, .aestd (ksField w))
  | 0x4A#8 => some (.K, .aesfe (ksField w))
  | 0x4B#8 => some (.K, .aesfd (ksField w))
  | 0x50#8 => some (.C, .caese (shiftField w))
  | 0x51#8 => some (.C, .caesd (shiftField w))
  | 0x52#8 => some (.N, .vkcln)
  | 0x54#8 => some (.N, .vigte)
  | 0x55#8 => some (.N, .vigtd)
  | 0x56#8 => some (.N, .vigbe)
  | 0x57#8 => some (.N, .vigbd)
  | 0x60#8 => some (.N, .ksgen)
  | 0x61#8 => some (.N, .kste)
  | 0x62#8 => some (.N, .kstd)
  | 0x63#8 => some (.N, .ksb)
  | 0x64#8 => some (.N, .sniff)
  | _ => none

/-- The decoding algorithm (30_encoding R106): the opcode is judged before the reserved bits. -/
def decode (w : Word32) : Except DecodeFault Instr :=
  match rowOf (opcField w) w with
  | none => .error .badOpcode
  | some (f, i) => if w &&& ~~~ f.fieldMask ≠ 0 then .error .reservedBits else .ok i

/-- The opcode of a command (30_encoding R98). -/
def Instr.opcode : Instr → Byte
  | .gfmul _ _ => 0x01#8
  | .ldst => 0x10#8
  | .stst => 0x11#8
  | .subb => 0x12#8
  | .isubb => 0x13#8
  | .shrow => 0x14#8
  | .ishrow => 0x15#8
  | .mixc => 0x16#8
  | .imixc => 0x17#8
  | .ark _ => 0x18#8
  | .kexp _ => 0x20#8
  | .kclr => 0x21#8
  | .rdrk _ => 0x22#8
  | .encb => 0x30#8
  | .decb => 0x31#8
  | .pad => 0x40#8
  | .unpadu => 0x41#8
  | .unpadv => 0x42#8
  | .hexe => 0x43#8
  | .hexd => 0x44#8
  | .u8chk => 0x45#8
  | .kdf _ => 0x46#8
  | .aeste _ => 0x48#8
  | .aestd _ => 0x49#8
  | .aesfe _ => 0x4A#8
  | .aesfd _ => 0x4B#8
  | .caese _ => 0x50#8
  | .caesd _ => 0x51#8
  | .vkcln => 0x52#8
  | .vigte => 0x54#8
  | .vigtd => 0x55#8
  | .vigbe => 0x56#8
  | .vigbd => 0x57#8
  | .ksgen => 0x60#8
  | .kste => 0x61#8
  | .kstd => 0x62#8
  | .ksb => 0x63#8
  | .sniff => 0x64#8

/-- The format of a command (30_encoding R98). -/
def Instr.format : Instr → Format
  | .gfmul _ _ => .G
  | .ldst => .N
  | .stst => .N
  | .subb => .N
  | .isubb => .N
  | .shrow => .N
  | .ishrow => .N
  | .mixc => .N
  | .imixc => .N
  | .ark _ => .R
  | .kexp _ => .K
  | .kclr => .N
  | .rdrk _ => .R
  | .encb => .N
  | .decb => .N
  | .pad => .N
  | .unpadu => .N
  | .unpadv => .N
  | .hexe => .N
  | .hexd => .N
  | .u8chk => .N
  | .kdf _ => .K
  | .aeste _ => .K
  | .aestd _ => .K
  | .aesfe _ => .K
  | .aesfd _ => .K
  | .caese _ => .C
  | .caesd _ => .C
  | .vkcln => .N
  | .vigte => .N
  | .vigtd => .N
  | .vigbe => .N
  | .vigbd => .N
  | .ksgen => .N
  | .kste => .N
  | .kstd => .N
  | .ksb => .N
  | .sniff => .N

/-- The operand fields of a command at their places in the word (30_encoding R91), all other bits 0. -/
def Instr.operandBits : Instr → Word32
  | .gfmul a b => 0#8 ++ b ++ a ++ 0#8
  | .ark ridx => 0#12 ++ ridx ++ 0#16
  | .rdrk ridx => 0#12 ++ ridx ++ 0#16
  | .kexp ks => 0#22 ++ ks ++ 0#8
  | .kdf ks => 0#22 ++ ks ++ 0#8
  | .aeste ks => 0#22 ++ ks ++ 0#8
  | .aestd ks => 0#22 ++ ks ++ 0#8
  | .aesfe ks => 0#22 ++ ks ++ 0#8
  | .aesfd ks => 0#22 ++ ks ++ 0#8
  | .caese shift => 0#8 ++ shift ++ 0#16
  | .caesd shift => 0#8 ++ shift ++ 0#16
  | .ldst => 0#32
  | .stst => 0#32
  | .subb => 0#32
  | .isubb => 0#32
  | .shrow => 0#32
  | .ishrow => 0#32
  | .mixc => 0#32
  | .imixc => 0#32
  | .kclr => 0#32
  | .encb => 0#32
  | .decb => 0#32
  | .pad => 0#32
  | .unpadu => 0#32
  | .unpadv => 0#32
  | .hexe => 0#32
  | .hexd => 0#32
  | .u8chk => 0#32
  | .vkcln => 0#32
  | .vigte => 0#32
  | .vigtd => 0#32
  | .vigbe => 0#32
  | .vigbd => 0#32
  | .ksgen => 0#32
  | .kste => 0#32
  | .kstd => 0#32
  | .ksb => 0#32
  | .sniff => 0#32

/-- The one word that spells a command (30_encoding R91, R98). -/
def encode (i : Instr) : Word32 := i.operandBits ||| i.opcode.setWidth 32

/-- A table row's bits as the command word: bit 0 of `w` is bit 0 of the word, and what `nbits` leaves out is 0. The
host moves all 32 bits of a word at once, so no byte order enters (20_memory R61). -/
def tableWord (nbits w : Nat) : Word32 := BitVec.ofNat 32 (w % 2 ^ nbits)

/-- What the decoder reads from a table row's bits, none where it refuses them. -/
def decodeTableWord (nbits w : Nat) : Option Instr :=
  match decode (tableWord nbits w) with
  | .ok i => some i
  | .error _ => none

end Sys2Proof
end

