-- ==== Sys2Proof/Config.lean ====
section
/-! DEFINITION. What the spec leaves open: the parameters of 00_scope R6, which the model takes as an argument (plain
data, held in State.params), and the free values, opaque constants that no proof can see. -/

namespace Sys2Proof

/-- A hash digest: exactly 32 bytes (00_scope R5, 47_hash_port R310). -/
abbrev Digest := Vector Byte 32

/-- The parameter HASH (00_scope R6): the default SHA-256, or some other total function from byte sequences to 32 bytes,
which stays uninterpreted (47_hash_port R310, log entry 3). -/
inductive HashChoice where
  | sha256
  | other (n : Nat)
deriving DecidableEq, Repr

/-- The parameter TEXT_UNPAD_CORNER (00_scope R6, 44_mode_sequencer R213). -/
inductive UnpadCorner where
  | clamp
  | pyslice
deriving DecidableEq, Repr

/-- The parameters of 00_scope R6 and decisions D5, D13, D17, D19, D21; the defaults are R6's. -/
structure Params where
  ibufCap : Nat := 65536
  obufCap : Nat := 131104
  kbufCap : Nat := 256
  hash : HashChoice := .sha256
  ksCtrInit : Nat := 0
  fileFullblockPad : Bool := false
  textUnpadCorner : UnpadCorner := .clamp
deriving DecidableEq, Repr

/-- The constraints that 00_scope R6 puts on the parameters. -/
abbrev Params.Valid (p : Params) : Prop :=
  32 ≤ p.ibufCap ∧ p.ibufCap < 2 ^ 32 ∧
  max 32 p.kbufCap ≤ p.obufCap ∧ p.obufCap < 2 ^ 32 ∧
  32 ≤ p.kbufCap ∧ p.kbufCap < 2 ^ 32 ∧
  p.ksCtrInit ≤ 2 ^ 32 - 2 ^ 27

/-- FREE VALUE: what the hash function that HASH = other n names gives (93 U10, log entry 3). -/
opaque Config.otherHash : Nat → List Byte → Digest

/-- FREE VALUE: byte `i` of IBUF while nothing has written it since reset number `gen` (93 U2, log entry 5). -/
opaque Config.unwrittenIbuf : (gen i : Nat) → Byte

/-- FREE VALUE: byte `i` of KBUF while nothing has written it since reset number `gen` (93 U2, log entry 5). -/
opaque Config.unwrittenKbuf : (gen i : Nat) → Byte

/-- FREE VALUE: byte `i` of OBUF at or above OLEN after event number `gen` of those that leave OBUF unspecified
(10_state R33, 93 U1 and U2, log entry 6). -/
opaque Config.unspecifiedObuf : (gen i : Nat) → Byte

end Sys2Proof
end

