-- ==== Sys2Proof/Machine/State.lean ====
section
/-! DEFINITION. The machine state (10_state R20), the host's actions that a step reads (20_memory R63, 70_reset R360),
the reasons a step could stop, and the state after reset (10_state R43). -/

namespace Sys2Proof.Machine

open Sys2Proof

/-- Faults: none. Every command word in every state, and every host action, has a next state (93_implementation_defined,
end of part 1): an error of 60_exceptions R321 is a next state (R330). Nobody raises a fault. -/
inductive Fault where
deriving DecidableEq, Repr

/-- Refusals: raised by no command of this model, since every command has its meaning. -/
inductive Refusal where
  /-- Raised by exec alone, for a command that has no meaning yet (safe: the run stops); no arm of exec uses it. -/
  | notModelled (mnemonic : String)
deriving DecidableEq, Repr

/-- A key-schedule word, the bytes `[b0, b1, b2, b3]` (10_state R24); it is never a 32-bit number (00_scope R7). -/
abbrev KeyWord := Quad Byte

/-- The AES state matrix: `x0` to `x3` are rows 0 to 3, each of four columns (10_state R21). -/
abbrev Matrix := Quad (Quad Byte)

/-- The three key sizes (30_encoding R97); the code 3 is none of them. -/
inductive KeySize where
  | k128
  | k192
  | k256
deriving DecidableEq, Repr

/-- What RK and RKS hold while RKV = 1 (10_state R24, R25): the key size and the words 0 to 4(N+1) - 1. The words above
are unspecified and never read, so they are not held. -/
structure Schedule where
  size : KeySize
  words : List KeyWord
deriving DecidableEq, Repr

/-- A buffer: the bytes that something has written, in strictly rising index order. An unlisted index holds no value of
the list's: what it reads as is in Machine/Ops.lean, one definition per buffer (10_state R33). -/
abbrev Memory := List Host.Cell

/-- The three byte spaces (20_memory R60). -/
inductive Space where
  | ibuf
  | kbuf
  | obuf
deriving DecidableEq, Repr

/-- The two spaces that the host may write (20_memory R63; OBUF is written by the sequencer alone, 10_state R32). -/
inductive HostSpace where
  | ibuf
  | kbuf
deriving DecidableEq, Repr

/-- What the outside does to the core: the four host actions of 20_memory R63 and the reset event of 70_reset R360. -/
inductive HostAction where
  /-- HostWriteBuf(space, i, v) -/
  | writeBuf (space : HostSpace) (i : Nat) (v : Byte)
  /-- HostReadBuf(space, i) -/
  | readBuf (space : Space) (i : Nat)
  /-- HostWriteReg(n, v); n = 0 issues the command v -/
  | writeReg (n : Nat) (v : Word32)
  /-- HostReadReg(n) -/
  | readReg (n : Nat)
  /-- reset -/
  | reset
deriving DecidableEq, Repr

/-- What a host read returns (20_memory R63): a byte or a whole register. -/
inductive HostReply where
  | byte (v : Byte)
  | word (v : Word32)
deriving DecidableEq, Repr

/-- The machine state. The first ten fields hold the thirteen pieces of 10_state R20: `aesState` is STATE and STV
(present iff STV = 1, R22), `rk` is RK, RKV and RKS (present iff RKV = 1, R25). The last five are the model's own. -/
structure State where
  /-- STATE, present exactly when STV = 1 (10_state R21, R22) -/
  aesState : Option Matrix
  /-- RK and RKS, present exactly when RKV = 1 (10_state R24, R25) -/
  rk : Option Schedule
  /-- RES (10_state R28) -/
  res : Byte
  /-- IBUF (10_state R29) -/
  ibuf : Memory
  /-- ILEN (10_state R29) -/
  ilen : Word32
  /-- KBUF (10_state R30) -/
  kbuf : Memory
  /-- KLEN (10_state R30) -/
  klen : Word32
  /-- OBUF (10_state R31) -/
  obuf : Memory
  /-- OLEN (10_state R31) -/
  olen : Word32
  /-- STATUS (10_state R34) -/
  status : Word32
  /-- the model's own: the parameters of 00_scope R6, which no step changes (log entry 2) -/
  params : Params
  /-- the model's own: the host's coming actions, oldest first (log entry 1) -/
  inbox : List HostAction
  /-- the model's own: what the host's latest read returned (log entry 7) -/
  reply : Option HostReply
  /-- the model's own: number of the reset that the unwritten bytes of IBUF and KBUF date from (log entry 5) -/
  bufGen : Nat
  /-- the model's own: number of the event that the unspecified bytes of OBUF date from (log entry 6) -/
  outGen : Nat
deriving DecidableEq, Repr

/-- The state after reset (10_state R43), with the default parameters and no host action yet. -/
def State.reset : State where
  aesState := none
  rk := none
  res := 0x00#8
  ibuf := []
  ilen := 0#32
  kbuf := []
  klen := 0#32
  obuf := []
  olen := 0#32
  status := 0x00000000#32
  params := {}
  inbox := []
  reply := none
  bufGen := 0
  outGen := 0

/-- How a step ends. -/
abbrev Out := Host.Outcome State Fault Refusal

end Sys2Proof.Machine
end

