-- ==== Sys2Proof/Machine/Flags.lean ====
section
/-! DEFINITION. The flags: STATUS with its fields OK, WARN, ERR and CAUSE (10_state R34), the error kinds and causes with
their codes (60_exceptions R320, R321), and the valid bits STV, RKV and RKS (10_state R22, R25). There are no arithmetic
flags (10_state R37). -/

namespace Sys2Proof.Machine

open Sys2Proof

/-- The error kinds (60_exceptions R320). IOError is the host's and the core never raises it (R322). -/
inductive ErrorKind where
  | invalidKey
  | invalidCiphertext
  | decodeError
  | ioError
  | commandFault
deriving DecidableEq, Repr

/-- The causes (60_exceptions R321). -/
inductive Cause where
  | keyLength
  | emptyKey
  | shiftRange
  | emptyVigenereKey
  | keySizeSelect
  | hexMalformed
  | size
  | empty
  | utf8Invalid
  | badOpcode
  | reservedBits
  | capacity
  | stateInvalid
  | roundKeysInvalid
  | roundIndex
  | length
  | lenRegRange
deriving DecidableEq, Repr

/-- The code of a kind, STATUS.ERR (60_exceptions R320). -/
def ErrorKind.code : ErrorKind → BitVec 4
  | .invalidKey => 1
  | .invalidCiphertext => 2
  | .decodeError => 3
  | .ioError => 4
  | .commandFault => 5

/-- The kind of a cause (60_exceptions R321). -/
def Cause.kind : Cause → ErrorKind
  | .keyLength => .invalidKey
  | .emptyKey => .invalidKey
  | .shiftRange => .invalidKey
  | .emptyVigenereKey => .invalidKey
  | .keySizeSelect => .invalidKey
  | .hexMalformed => .invalidCiphertext
  | .size => .invalidCiphertext
  | .empty => .invalidCiphertext
  | .utf8Invalid => .decodeError
  | .badOpcode => .commandFault
  | .reservedBits => .commandFault
  | .capacity => .commandFault
  | .stateInvalid => .commandFault
  | .roundKeysInvalid => .commandFault
  | .roundIndex => .commandFault
  | .length => .commandFault
  | .lenRegRange => .commandFault

/-- The code of a cause within its kind, STATUS.CAUSE (60_exceptions R321). -/
def Cause.code : Cause → BitVec 4
  | .keyLength => 1
  | .emptyKey => 2
  | .shiftRange => 3
  | .emptyVigenereKey => 4
  | .keySizeSelect => 5
  | .hexMalformed => 1
  | .size => 2
  | .empty => 3
  | .utf8Invalid => 1
  | .badOpcode => 1
  | .reservedBits => 2
  | .capacity => 3
  | .stateInvalid => 4
  | .roundKeysInvalid => 5
  | .roundIndex => 6
  | .length => 7
  | .lenRegRange => 8

/-- A STATUS word from its fields: OK bit 9, WARN bit 8, CAUSE bits 7:4, ERR bits 3:0, the rest 0 (10_state R34). -/
def statusWord (ok warn : Bool) (cause err : BitVec 4) : Word32 :=
  0#22 ++ BitVec.ofBool ok ++ BitVec.ofBool warn ++ cause ++ err

/-- STATUS after a command that completed, with its warning bit (00_scope R8 `ok(w)`). -/
def okStatus (warn : Bool) : Word32 := statusWord true warn 0 0

/-- STATUS after an error (60_exceptions R330). -/
def errorStatus (c : Cause) : Word32 := statusWord false false c.code c.kind.code

/-- STATUS.ERR, bits 3:0 (10_state R34). -/
def State.err (s : State) : BitVec 4 := s.status.extractLsb' 0 4

/-- STATUS.CAUSE, bits 7:4 (10_state R34). -/
def State.cause (s : State) : BitVec 4 := s.status.extractLsb' 4 4

/-- STATUS.WARN, bit 8 (10_state R34). -/
def State.warn (s : State) : Bool := s.status.getLsbD 8

/-- STATUS.OK, bit 9 (10_state R34). -/
def State.okFlag (s : State) : Bool := s.status.getLsbD 9

/-- STV: STATE holds a value (10_state R22). -/
def State.stv (s : State) : Bool := s.aesState.isSome

/-- RKV: RK holds a complete schedule (10_state R25). -/
def State.rkv (s : State) : Bool := s.rk.isSome

/-- The key-size code of a size (10_state R25, 30_encoding R97). -/
def KeySize.code : KeySize → BitVec 2
  | .k128 => 0
  | .k192 => 1
  | .k256 => 2

/-- RKS, meaningful only while RKV = 1 (10_state R25). -/
def State.rks (s : State) : Option (BitVec 2) := s.rk.map fun r => r.size.code

end Sys2Proof.Machine
end

