-- ==== Sys2Proof/Machine/Memory.lean ====
section
/-! DEFINITION. The operations on a buffer's list of bytes (20_memory R60, R63): its canonical form, one byte read, one
byte written, and a payload written from index 0. -/

namespace Sys2Proof.Machine

open Sys2Proof

/-- The canonical form: indices strictly rising, so that equal contents are equal lists. No entry equals what an unlisted
index reads as, because an unlisted index has no value. -/
def Memory.wf : Memory → Bool
  | [] => true
  | [_] => true
  | a :: b :: rest => a.1 < b.1 && Memory.wf (b :: rest)

/-- Every listed index is below a bound. -/
def Memory.below (n : Nat) (m : Memory) : Bool := m.all fun c => c.1 < n

/-- The byte listed at index `i`, if any. -/
def Memory.get? : Memory → Nat → Option Byte
  | [], _ => none
  | (j, v) :: rest, i => if i = j then some v else Memory.get? rest i

/-- Write byte `v` at index `i`, keeping the order. -/
def Memory.set : Memory → Nat → Byte → Memory
  | [], i, v => [(i, v)]
  | (j, u) :: rest, i, v =>
    if i < j then (i, v) :: (j, u) :: rest
    else if i = j then (i, v) :: rest
    else (j, u) :: Memory.set rest i v

/-- The bytes `d` at indices `i`, `i + 1`, and so on. -/
def Memory.bytesFrom : Nat → List Byte → Memory
  | _, [] => []
  | i, v :: d => (i, v) :: Memory.bytesFrom (i + 1) d

end Sys2Proof.Machine
end

