-- ==== Sys2Proof/Machine/Ops.lean ====
section
/-! DEFINITION. The operations that the commands and the host actions share: how a command ends (`ok`, `raise`,
`deliver`, 00_scope R8, 60_exceptions R330), how its session ends (44_mode_sequencer R219), and how registers and buffers
are read and written (20_memory R63, R64). -/

namespace Sys2Proof.Machine

open Sys2Proof

/-- What `raise` writes (60_exceptions R330): STATUS, OLEN <- 0, and with it every byte of OBUF becomes unspecified.
Nothing else changes. There is no return from it: the core waits for the next command (R333). -/
def State.raised (s : State) (c : Cause) : State :=
  { s with status := errorStatus c, olen := 0#32, obuf := [], outGen := s.outGen + 1 }

/-- End the command with an error (60_exceptions R330). -/
def raise (c : Cause) (s : State) : Out := .next (s.raised c)

/-- What `ok(w)` writes (00_scope R8). -/
def State.completed (s : State) (warn : Bool) : State := { s with status := okStatus warn }

/-- End the command successfully with warning bit `warn` (00_scope R8). -/
def okWarn (warn : Bool) (s : State) : Out := .next (s.completed warn)

/-- End the command successfully (00_scope R8). -/
def ok (s : State) : Out := okWarn false s

/-- Report cause `c` if `bad` holds, else go on with `k` (60_exceptions R326, R331: a check comes before any write). -/
def check (bad : Prop) [Decidable bad] (c : Cause) (s : State) (k : Out) : Out :=
  if bad then raise c s else k

/-- `deliver(d)` (00_scope R8): d at OBUF[0..], OLEN <- len(d), the bytes of OBUF above become unspecified (10_state R33). -/
def deliver (d : List Byte) (s : State) : State :=
  { s with obuf := Memory.bytesFrom 0 d, olen := BitVec.ofNat 32 d.length, outGen := s.outGen + 1 }

/-- `endsession()` (44_mode_sequencer R219), also what KCLR does (42_aes_key_schedule R175): RKV <- 0, STV <- 0. -/
def endSession (s : State) : State := { s with rk := none, aesState := none }

/-- STV <- 0 (43_aes_block_engine R192): the contents of STATE become unspecified. -/
def dropState (s : State) : State := { s with aesState := none }

/-- Byte `i` of IBUF as a command or the host sees it; a byte that nothing has written since reset is a free value. -/
def State.ibufByte (s : State) (i : Nat) : Byte := (s.ibuf.get? i).getD (Config.unwrittenIbuf s.bufGen i)

/-- Byte `i` of KBUF; a byte that nothing has written since reset is a free value. -/
def State.kbufByte (s : State) (i : Nat) : Byte := (s.kbuf.get? i).getD (Config.unwrittenKbuf s.bufGen i)

/-- Byte `i` of OBUF; a byte at or above OLEN is a free value (10_state R33). -/
def State.obufByte (s : State) (i : Nat) : Byte := (s.obuf.get? i).getD (Config.unspecifiedObuf s.outGen i)

/-- `MemRead(space, i, n)` for the spaces that commands read (00_scope R8), the bytes i to i + n - 1. -/
def memRead (byteAt : Nat → Byte) (i n : Nat) : List Byte := (List.range n).map fun k => byteAt (i + k)

/-- ILEN as a number, `n` in the table of needs (20_memory R72). -/
abbrev State.n (s : State) : Nat := s.ilen.toNat

/-- KLEN as a number. -/
abbrev State.kn (s : State) : Nat := s.klen.toNat

/-- `in`, the input payload IBUF[0..ILEN-1] (00_scope R8). -/
def State.input (s : State) : List Byte := memRead s.ibufByte 0 s.n

/-- `key`, the key payload KBUF[0..KLEN-1] (00_scope R8). -/
def State.key (s : State) : List Byte := memRead s.kbufByte 0 s.kn

/-- The output payload OBUF[0..OLEN-1] (10_state R31). -/
def State.output (s : State) : List Byte := memRead s.obufByte 0 s.olen.toNat

/-- Capacity of a space in bytes (20_memory R60). -/
def State.cap (s : State) : Space → Nat
  | .ibuf => s.params.ibufCap
  | .kbuf => s.params.kbufCap
  | .obuf => s.params.obufCap

/-- HostReadBuf (20_memory R63); from the capacity up a read gives 0 (R64). -/
def hostBufByte (s : State) (space : Space) (i : Nat) : Byte :=
  if i < s.cap space then
    match space with
    | .ibuf => s.ibufByte i
    | .kbuf => s.kbufByte i
    | .obuf => s.obufByte i
  else 0#8

/-- HostWriteBuf (20_memory R63); from the capacity up a write is ignored (R64). -/
def hostSetBuf (s : State) (space : HostSpace) (i : Nat) (v : Byte) : State :=
  match space with
  | .ibuf => if i < s.params.ibufCap then { s with ibuf := s.ibuf.set i v } else s
  | .kbuf => if i < s.params.kbufCap then { s with kbuf := s.kbuf.set i v } else s

/-- HostReadReg (20_memory R63) by the numbers of 10_state R36; CMD and every number from 6 up read 0. -/
def hostRegWord (s : State) : Nat → Word32
  | 1 => s.status
  | 2 => s.ilen
  | 3 => s.klen
  | 4 => s.olen
  | 5 => s.res.setWidth 32
  | _ => 0#32

/-- HostWriteReg (20_memory R63) of a register other than CMD: ILEN and KLEN take any 32-bit value, every other number is
ignored (10_state R36). -/
def hostSetReg (s : State) (n : Nat) (v : Word32) : State :=
  match n with
  | 2 => { s with ilen := v }
  | 3 => { s with klen := v }
  | _ => s

/-- The reset event (70_reset R360): the state of 10_state R43; the parameters are the machine's, the coming actions and
the last answer are the host's, and every unspecified byte is a new free value. -/
def hostReset (s : State) : State :=
  { State.reset with
    params := s.params
    inbox := s.inbox
    reply := s.reply
    bufGen := s.bufGen + 1
    outGen := s.outGen + 1 }

end Sys2Proof.Machine
end

