-- ==== Sys2Proof/Machine/Operands.lean ====
section
/-! DEFINITION. The operands: what the fields KS, RIDX and SHIFT stand for (30_encoding R97), and the checks on the
length registers and on the output capacity that precede a command's work (20_memory R72, R73). -/

namespace Sys2Proof.Machine

open Sys2Proof

/-- The key size of a KS field; 3 is none (30_encoding R97). -/
def keySizeOf : BitVec 2 → Option KeySize
  | 0 => some .k128
  | 1 => some .k192
  | 2 => some .k256
  | 3 => none

/-- Key length in bytes, `kb` (30_encoding R97). -/
def KeySize.bytes : KeySize → Nat
  | .k128 => 16
  | .k192 => 24
  | .k256 => 32

/-- Number of rounds, `N` (30_encoding R97, 10_state R25). -/
def KeySize.rounds : KeySize → Nat
  | .k128 => 10
  | .k192 => 12
  | .k256 => 14

/-- SHIFT is legal from 1 to 25 (30_encoding R97). -/
abbrev shiftOutOfRange (shift : Byte) : Prop := shift.toNat < 1 ∨ shift.toNat > 25

/-- RIDX is legal up to N of the schedule in RK (30_encoding R97). -/
abbrev ridxOutOfRange (ridx : BitVec 4) (size : KeySize) : Prop := ridx.toNat > size.rounds

/-- ILEN is above the capacity of IBUF (20_memory R73). -/
abbrev State.ilenOutOfRange (s : State) : Prop := s.n > s.params.ibufCap

/-- KLEN is above the capacity of KBUF (20_memory R73). -/
abbrev State.klenOutOfRange (s : State) : Prop := s.kn > s.params.kbufCap

/-- The output need of a command is above the capacity of OBUF (20_memory R72), on natural numbers (48_arith R400). -/
abbrev State.needTooLarge (s : State) (need : Nat) : Prop := need > s.params.obufCap

/-- The length of a padded payload of n bytes, n + 16 - (n mod 16) (20_memory R72, 44_mode_sequencer R210). -/
def paddedLength (n : Nat) : Nat := n + 16 - n % 16

end Sys2Proof.Machine
end

