-- ==== Sys2Proof/Machine/Sha256.lean ====
section
/-! DEFINITION. The default hash function, SHA-256 (47_hash_port R311 to R314), and the hash port H (R310). -/

namespace Sys2Proof.Machine

open Sys2Proof

namespace Sha256

/-- 47_hash_port R311. -/
def ch (x y z : Word32) : Word32 := (x &&& y) ^^^ (~~~ x &&& z)

/-- 47_hash_port R311. -/
def maj (x y z : Word32) : Word32 := (x &&& y) ^^^ (x &&& z) ^^^ (y &&& z)

/-- S0 of 47_hash_port R311. -/
def bigSigma0 (x : Word32) : Word32 := x.rotateRight 2 ^^^ x.rotateRight 13 ^^^ x.rotateRight 22

/-- S1 of 47_hash_port R311. -/
def bigSigma1 (x : Word32) : Word32 := x.rotateRight 6 ^^^ x.rotateRight 11 ^^^ x.rotateRight 25

/-- s0 of 47_hash_port R311. -/
def smallSigma0 (x : Word32) : Word32 := x.rotateRight 7 ^^^ x.rotateRight 18 ^^^ x >>> 3

/-- s1 of 47_hash_port R311. -/
def smallSigma1 (x : Word32) : Word32 := x.rotateRight 17 ^^^ x.rotateRight 19 ^^^ x >>> 10

/-- The 64 round constants K[0] to K[63] (47_hash_port R312). -/
def roundConstants : List Word32 :=
  [0x428a2f98#32, 0x71374491#32, 0xb5c0fbcf#32, 0xe9b5dba5#32, 0x3956c25b#32, 0x59f111f1#32, 0x923f82a4#32, 0xab1c5ed5#32] ++
  [0xd807aa98#32, 0x12835b01#32, 0x243185be#32, 0x550c7dc3#32, 0x72be5d74#32, 0x80deb1fe#32, 0x9bdc06a7#32, 0xc19bf174#32] ++
  [0xe49b69c1#32, 0xefbe4786#32, 0x0fc19dc6#32, 0x240ca1cc#32, 0x2de92c6f#32, 0x4a7484aa#32, 0x5cb0a9dc#32, 0x76f988da#32] ++
  [0x983e5152#32, 0xa831c66d#32, 0xb00327c8#32, 0xbf597fc7#32, 0xc6e00bf3#32, 0xd5a79147#32, 0x06ca6351#32, 0x14292967#32] ++
  [0x27b70a85#32, 0x2e1b2138#32, 0x4d2c6dfc#32, 0x53380d13#32, 0x650a7354#32, 0x766a0abb#32, 0x81c2c92e#32, 0x92722c85#32] ++
  [0xa2bfe8a1#32, 0xa81a664b#32, 0xc24b8b70#32, 0xc76c51a3#32, 0xd192e819#32, 0xd6990624#32, 0xf40e3585#32, 0x106aa070#32] ++
  [0x19a4c116#32, 0x1e376c08#32, 0x2748774c#32, 0x34b0bcb5#32, 0x391c0cb3#32, 0x4ed8aa4a#32, 0x5b9cca4f#32, 0x682e6ff3#32] ++
  [0x748f82ee#32, 0x78a5636f#32, 0x84c87814#32, 0x8cc70208#32, 0x90befffa#32, 0xa4506ceb#32, 0xbef9a3f7#32, 0xc67178f2#32]

/-- The eight working words a to h, and the running hash value h[0] to h[7] (47_hash_port R314). -/
structure Eight where
  a : Word32
  b : Word32
  c : Word32
  d : Word32
  e : Word32
  f : Word32
  g : Word32
  h : Word32
deriving DecidableEq, Repr

/-- The initial hash value (47_hash_port R312). -/
def initial : Eight :=
  ⟨0x6a09e667#32, 0xbb67ae85#32, 0x3c6ef372#32, 0xa54ff53a#32, 0x510e527f#32, 0x9b05688c#32, 0x1f83d9ab#32, 0x5be0cd19#32⟩

/-- A word as 4 bytes, most significant first (47_hash_port R314). -/
def wordBytes (w : Word32) : List Byte :=
  [w.extractLsb' 24 8, w.extractLsb' 16 8, w.extractLsb' 8 8, w.extractLsb' 0 8]

/-- Four bytes as a word, most significant first (47_hash_port R313). -/
def wordOf (b0 b1 b2 b3 : Byte) : Word32 := b0 ++ b1 ++ b2 ++ b3

/-- The message with its padding (47_hash_port R313): 0x80, the fewest zero bytes that reach 56 modulo 64, and the bit
length as 8 bytes, most significant first. -/
def padMessage (m : List Byte) : List Byte :=
  m ++ [0x80#8] ++ List.replicate ((119 - m.length % 64) % 64) 0#8 ++
    wordBytes (BitVec.ofNat 32 (8 * m.length / 2 ^ 32)) ++ wordBytes (BitVec.ofNat 32 (8 * m.length))

/-- The words of a byte sequence, 4 bytes each (47_hash_port R313). -/
def wordsOf : List Byte → List Word32
  | b0 :: b1 :: b2 :: b3 :: rest => wordOf b0 b1 b2 b3 :: wordsOf rest
  | _ => []

/-- One more word of the message schedule, `t` being the number of words so far (47_hash_port R314). -/
def extend (w : List Word32) : List Word32 :=
  let t := w.length
  let word := fun j => w.getD j 0#32
  w ++ [smallSigma1 (word (t - 2)) + word (t - 7) + smallSigma0 (word (t - 15)) + word (t - 16)]

/-- The message schedule W[0..63] of a chunk's 16 words (47_hash_port R314). -/
def messageSchedule (chunk : List Word32) : List Word32 := extend^[48] chunk

/-- One round (47_hash_port R314). -/
def round (v : Eight) (kw : Word32 × Word32) : Eight :=
  let t1 := v.h + bigSigma1 v.e + ch v.e v.f v.g + kw.1 + kw.2
  let t2 := bigSigma0 v.a + maj v.a v.b v.c
  ⟨t1 + t2, v.a, v.b, v.c, v.d + t1, v.e, v.f, v.g⟩

/-- The compression of one chunk of 16 words (47_hash_port R314). -/
def compress (h : Eight) (chunk : List Word32) : Eight :=
  let v := (roundConstants.zip (messageSchedule chunk)).foldl round h
  ⟨h.a + v.a, h.b + v.b, h.c + v.c, h.d + v.d, h.e + v.e, h.f + v.f, h.g + v.g, h.h + v.h⟩

/-- The compression of `n` chunks, in order (47_hash_port R314). -/
def compressAll : Nat → Eight → List Word32 → Eight
  | 0, h, _ => h
  | n + 1, h, w => compressAll n (compress h (w.take 16)) (w.drop 16)

/-- The 32 bytes of a hash value (47_hash_port R314). -/
def digestOf (h : Eight) : Digest :=
  ⟨⟨wordBytes h.a ++ wordBytes h.b ++ wordBytes h.c ++ wordBytes h.d ++
    wordBytes h.e ++ wordBytes h.f ++ wordBytes h.g ++ wordBytes h.h⟩, rfl⟩

end Sha256

/-- SHA-256 (47_hash_port R313, R314). -/
def sha256 (m : List Byte) : Digest :=
  let w := Sha256.wordsOf (Sha256.padMessage m)
  Sha256.digestOf (Sha256.compressAll (w.length / 16) Sha256.initial w)

/-- The hash function that the parameter HASH names (47_hash_port R310). -/
def hashOf : HashChoice → List Byte → Digest
  | .sha256 => sha256
  | .other n => Config.otherHash n

/-- The hash port `H` of the machine, the parameter HASH (00_scope R8, 47_hash_port R310). -/
def State.H (s : State) : List Byte → Digest := hashOf s.params.hash

end Sys2Proof.Machine
end

