-- ==== Sys2Proof/Machine/Framing.lean ====
section
/-! DEFINITION. Padding, hexadecimal, UTF-8 validity and key derivation (unit MSQ, 44_mode_sequencer sections 1 and 2) and
the framing commands PAD, UNPADU, UNPADV, HEXE, HEXD, U8CHK and KDF. -/

namespace Sys2Proof.Machine

open Sys2Proof

/-- `pad(d)`: p bytes of value p, p = 16 - (len(d) mod 16) (44_mode_sequencer R210). -/
def padBytes (d : List Byte) : List Byte :=
  let p := 16 - d.length % 16
  d ++ List.replicate p (BitVec.ofNat 8 p)

/-- `padFile(d)` (44_mode_sequencer R211). -/
def padFile (fullblockPad : Bool) (d : List Byte) : List Byte :=
  if d.length % 16 ≠ 0 then padBytes d else if fullblockPad then padBytes d else d

/-- `unpadV(d)`: the validated, lenient strip; the data and the warning (44_mode_sequencer R212). -/
def unpadV (d : List Byte) : List Byte × Bool :=
  match d.getLast? with
  | none => (d, true)
  | some last =>
    let p := last.toNat
    if 1 ≤ p ∧ p ≤ 16 ∧ p ≤ d.length ∧ ∀ v ∈ d.drop (d.length - p), v = last then
      (d.take (d.length - p), false)
    else (d, true)

/-- `unpadU(d)`: the unconditional strip by the last byte's value (44_mode_sequencer R213). Defined for a non-empty d. -/
def unpadU (corner : UnpadCorner) (d : List Byte) : List Byte :=
  match d.getLast? with
  | none => []
  | some last =>
    let p := last.toNat
    if p = 0 then
      match corner with
      | .clamp => d
      | .pyslice => []
    else if p < d.length then d.take (d.length - p)
    else []

/-- HEXDIGIT[x] for a nibble x, lower case (44_mode_sequencer R214). -/
def hexDigit (x : Nat) : Byte := if x < 10 then BitVec.ofNat 8 (0x30 + x) else BitVec.ofNat 8 (0x61 + (x - 10))

/-- `hexEnc(d)`: two characters a byte, the high nibble first (44_mode_sequencer R214). -/
def hexEnc (d : List Byte) : List Byte := d.flatMap fun v => [hexDigit (v.toNat / 16), hexDigit (v.toNat % 16)]

/-- `hexval(ch)` (44_mode_sequencer R215). -/
def hexVal (ch : Byte) : Option Nat :=
  if 0x30 ≤ ch.toNat ∧ ch.toNat ≤ 0x39 then some (ch.toNat - 0x30)
  else if 0x61 ≤ ch.toNat ∧ ch.toNat ≤ 0x66 then some (ch.toNat - 0x61 + 10)
  else if 0x41 ≤ ch.toNat ∧ ch.toNat ≤ 0x46 then some (ch.toNat - 0x41 + 10)
  else none

/-- `hexDec(t)`, none where it fails: an odd length or a character that is no digit (44_mode_sequencer R215). -/
def hexDec : List Byte → Option (List Byte)
  | [] => some []
  | [_] => none
  | h :: l :: rest =>
    match hexVal h, hexVal l, hexDec rest with
    | some hi, some lo, some out => some (BitVec.ofNat 8 (16 * hi + lo) :: out)
    | _, _, _ => none

/-- The rows of the UTF-8 table: for each byte of a sequence the lowest and the highest value (44_mode_sequencer R216). -/
def utf8Rows : List (List (Nat × Nat)) :=
  [[(0x00, 0x7F)],
   [(0xC2, 0xDF), (0x80, 0xBF)],
   [(0xE0, 0xE0), (0xA0, 0xBF), (0x80, 0xBF)],
   [(0xE1, 0xEC), (0x80, 0xBF), (0x80, 0xBF)],
   [(0xED, 0xED), (0x80, 0x9F), (0x80, 0xBF)],
   [(0xEE, 0xEF), (0x80, 0xBF), (0x80, 0xBF)],
   [(0xF0, 0xF0), (0x90, 0xBF), (0x80, 0xBF), (0x80, 0xBF)],
   [(0xF1, 0xF3), (0x80, 0xBF), (0x80, 0xBF), (0x80, 0xBF)],
   [(0xF4, 0xF4), (0x80, 0x8F), (0x80, 0xBF), (0x80, 0xBF)]]

/-- What follows a sequence that matches a row, none where the bytes do not match it (44_mode_sequencer R216). -/
def afterRow : List (Nat × Nat) → List Byte → Option (List Byte)
  | [], d => some d
  | _ :: _, [] => none
  | (lo, hi) :: row, b :: d => if lo ≤ b.toNat ∧ b.toNat ≤ hi then afterRow row d else none

/-- d is a concatenation of at most `fuel` sequences, each matching a row. The rows' first bytes exclude each other, so the
row is the only one that can match. -/
def utf8Seqs : (fuel : Nat) → List Byte → Bool
  | _, [] => true
  | 0, _ :: _ => false
  | fuel + 1, b :: d =>
    match utf8Rows.findSome? fun row => afterRow row (b :: d) with
    | some rest => utf8Seqs fuel rest
    | none => false

/-- `utf8Valid(d)` (44_mode_sequencer R216): no byte sequence holds more sequences than bytes. -/
def utf8Valid (d : List Byte) : Bool := utf8Seqs d.length d

/-- `deriveKey(pass, kb)` with the hash H: the first kb bytes of one digest, no salt, no iteration (44_mode_sequencer R217). -/
def deriveKey (H : List Byte → Digest) (pass : List Byte) (kb : Nat) : List Byte := (H pass).toList.take kb

/-- `precheck()` of a framing command that reads IBUF alone (44_mode_sequencer R235). -/
def precheck (need : Nat) (s : State) (k : Out) : Out :=
  check s.ilenOutOfRange .lenRegRange s <|
  check (s.needTooLarge need) .capacity s k

/-- PAD (44_mode_sequencer R220). -/
def execPad (s : State) : Out :=
  precheck (paddedLength s.n) s <|
  ok (deliver (padBytes s.input) s)

/-- UNPADU (44_mode_sequencer R221). -/
def execUnpadu (s : State) : Out :=
  precheck s.n s <|
  check (s.n = 0) .empty s <|
  ok (deliver (unpadU s.params.textUnpadCorner s.input) s)

/-- UNPADV (44_mode_sequencer R222). -/
def execUnpadv (s : State) : Out :=
  precheck s.n s <|
  okWarn (unpadV s.input).2 (deliver (unpadV s.input).1 s)

/-- HEXE (44_mode_sequencer R223). -/
def execHexe (s : State) : Out :=
  precheck (2 * s.n) s <|
  ok (deliver (hexEnc s.input) s)

/-- HEXD (44_mode_sequencer R224). -/
def execHexd (s : State) : Out :=
  precheck (s.n / 2) s <|
  match hexDec s.input with
  | none => raise .hexMalformed s
  | some d => ok (deliver d s)

/-- U8CHK (44_mode_sequencer R225). -/
def execU8chk (s : State) : Out :=
  check s.ilenOutOfRange .lenRegRange s <|
  check (utf8Valid s.input = false) .utf8Invalid s <|
  ok s

/-- KDF bits (44_mode_sequencer R226). -/
def execKdf (ks : BitVec 2) (s : State) : Out :=
  check s.klenOutOfRange .lenRegRange s <|
  match keySizeOf ks with
  | none => raise .keySizeSelect s
  | some size =>
    check (s.kn = 0) .emptyKey s <|
    ok (deliver (deriveKey s.H s.key size.bytes) s)

end Sys2Proof.Machine
end

