-- ==== Sys2Proof/Machine/Keystream.lean ====
section
/-! DEFINITION. The legacy cipher engines, part 2 (unit LCE, 46_legacy_keystream): the keystream generator, the commands
KSGEN, KSTE, KSTD and KSB, and the payload sniffer SNIFF. -/

namespace Sys2Proof.Machine

open Sys2Proof

/-- `BE32(c)`: 4 bytes, most significant first (46_legacy_keystream R290). -/
def be32 (c : Nat) : List Byte := Sha256.wordBytes (BitVec.ofNat 32 c)

/-- `keystream(seed, n)` with the hash H and the first counter value `start`: ceil(n / 32) digests of seed ++ BE32(c),
c counting up by 1, cut to n bytes (46_legacy_keystream R290). -/
def keystream (H : List Byte → Digest) (start : Nat) (seed : List Byte) (n : Nat) : List Byte :=
  ((List.range ((n + 31) / 32)).flatMap fun j => (H (seed ++ be32 (start + j))).toList).take n

/-- `ksXor(d, seed)` (46_legacy_keystream R292). -/
def ksXor (H : List Byte → Digest) (start : Nat) (d seed : List Byte) : List Byte :=
  List.zipWith (fun v k => v ^^^ k) d (keystream H start seed d.length)

/-- `sniff(d)`: a 0x00 or a byte above 0x7F among the first 1024 (46_legacy_keystream R296). -/
def sniff (d : List Byte) : Bool := (d.take 1024).any fun v => v = 0x00#8 || v.toNat > 0x7F

/-- The checks that the keystream commands share (46_legacy_keystream R291, R293 to R295). -/
def keystreamChecks (need : Nat) (s : State) (k : Out) : Out :=
  check (s.ilenOutOfRange ∨ s.klenOutOfRange) .lenRegRange s <|
  check (s.needTooLarge need) .capacity s <|
  check (s.kn = 0) .emptyKey s k

/-- KSGEN (46_legacy_keystream R291). -/
def execKsgen (s : State) : Out :=
  keystreamChecks s.n s <|
  ok (deliver (keystream s.H s.params.ksCtrInit s.key s.n) s)

/-- KSTE (46_legacy_keystream R293). -/
def execKste (s : State) : Out :=
  keystreamChecks (2 * s.n) s <|
  ok (deliver (hexEnc (ksXor s.H s.params.ksCtrInit s.input s.key)) s)

/-- KSTD (46_legacy_keystream R294). -/
def execKstd (s : State) : Out :=
  keystreamChecks (s.n / 2) s <|
  match hexDec s.input with
  | none => raise .hexMalformed s
  | some c =>
    let d := ksXor s.H s.params.ksCtrInit c s.key
    check (utf8Valid d = false) .utf8Invalid s <|
    ok (deliver d s)

/-- KSB (46_legacy_keystream R295). -/
def execKsb (s : State) : Out :=
  keystreamChecks s.n s <|
  ok (deliver (ksXor s.H s.params.ksCtrInit s.input s.key) s)

/-- SNIFF (46_legacy_keystream R297). -/
def execSniff (s : State) : Out :=
  check s.ilenOutOfRange .lenRegRange s <|
  ok { s with res := if sniff s.input then 0x01#8 else 0x00#8 }

end Sys2Proof.Machine
end

