-- ==== Sys2Proof/Machine/Legacy.lean ====
section
/-! DEFINITION. The legacy cipher engines, part 1 (unit LCE, 45_legacy_caesar_vigenere): letters, the Caesar rotation, the
Vigenere substitution in text and binary mode, and the commands CAESE, CAESD, VKCLN, VIGTE, VIGTD, VIGBE and VIGBD. -/

namespace Sys2Proof.Machine

open Sys2Proof

/-- An upper-case letter, A to Z (45_legacy_caesar_vigenere R260). -/
abbrev isUpper (v : Byte) : Prop := 0x41 ≤ v.toNat ∧ v.toNat ≤ 0x5A

/-- A lower-case letter, a to z (45_legacy_caesar_vigenere R260). -/
abbrev isLower (v : Byte) : Prop := 0x61 ≤ v.toNat ∧ v.toNat ≤ 0x7A

/-- The letter of the alphabet that begins at `base`, shifted by k places (45_legacy_caesar_vigenere R261); `%` on
integers is the mathematical remainder for a positive modulus (00_scope R7). -/
def shiftFrom (base : Nat) (v : Byte) (k : Int) : Byte :=
  BitVec.ofNat 8 (base + (((v.toNat : Int) - base + k) % 26).toNat)

/-- A letter shifted within its case's alphabet, any other byte as it is (45_legacy_caesar_vigenere R261). -/
def shiftLetter (v : Byte) (k : Int) : Byte :=
  if isUpper v then shiftFrom 0x41 v k
  else if isLower v then shiftFrom 0x61 v k
  else v

/-- `caesar(d, k)` (45_legacy_caesar_vigenere R261). -/
def caesar (d : List Byte) (k : Int) : List Byte := d.map fun v => shiftLetter v k

/-- The checks that CAESE and CAESD share, and the rotation by k (45_legacy_caesar_vigenere R262, R263). -/
def caesarCommand (shift : Byte) (k : Int) (s : State) : Out :=
  check s.ilenOutOfRange .lenRegRange s <|
  check (s.needTooLarge s.n) .capacity s <|
  check (shiftOutOfRange shift) .shiftRange s <|
  ok (deliver (caesar s.input k) s)

/-- CAESE s (45_legacy_caesar_vigenere R262). -/
def execCaese (shift : Byte) (s : State) : Out := caesarCommand shift shift.toNat s

/-- CAESD s (45_legacy_caesar_vigenere R263). -/
def execCaesd (shift : Byte) (s : State) : Out := caesarCommand shift (-(shift.toNat : Int)) s

/-- `cleanKey(k)`: letters only, upper-cased, in order (45_legacy_caesar_vigenere R264). -/
def cleanKey (k : List Byte) : List Byte :=
  k.filterMap fun v => if isUpper v then some v else if isLower v then some (v - 0x20#8) else none

/-- The shift of key position j: the alphabet position of the letter there, the key used cyclically
(45_legacy_caesar_vigenere R266, R269). Defined for a non-empty cleaned key. -/
def keyShift (ck : List Byte) (j : Nat) : Nat := (ck.getD (j % ck.length) 0x41#8).toNat - 0x41

/-- `vigText(d, ck, sign)` from key position j on: the cursor advances on letters only (45_legacy_caesar_vigenere R266). -/
def vigTextFrom (ck : List Byte) (sign : Int) : (j : Nat) → List Byte → List Byte
  | _, [] => []
  | j, v :: d =>
    if isUpper v ∨ isLower v then shiftLetter v (sign * keyShift ck j) :: vigTextFrom ck sign (j + 1) d
    else v :: vigTextFrom ck sign j d

/-- `vigText(d, ck, sign)`; the cursor starts at 0 for every command (45_legacy_caesar_vigenere R266). -/
def vigText (d ck : List Byte) (sign : Int) : List Byte := vigTextFrom ck sign 0 d

/-- `vigBin(d, ck, sign)` from byte index i on: every byte is moved, modulo 256 (45_legacy_caesar_vigenere R269). -/
def vigBinFrom (ck : List Byte) (sign : Int) : (i : Nat) → List Byte → List Byte
  | _, [] => []
  | i, v :: d => BitVec.ofInt 8 (v.toNat + sign * keyShift ck i) :: vigBinFrom ck sign (i + 1) d

/-- `vigBin(d, ck, sign)` (45_legacy_caesar_vigenere R269). -/
def vigBin (d ck : List Byte) (sign : Int) : List Byte := vigBinFrom ck sign 0 d

/-- VKCLN (45_legacy_caesar_vigenere R265). -/
def execVkcln (s : State) : Out :=
  check s.klenOutOfRange .lenRegRange s <|
  check ((cleanKey s.key).length = 0) .emptyVigenereKey s <|
  ok (deliver (cleanKey s.key) s)

/-- The checks that the four Vigenere commands share, and the transform of the payload with the cleaned key
(45_legacy_caesar_vigenere R267, R268, R270, R271). -/
def vigenereCommand (f : List Byte → List Byte → List Byte) (s : State) : Out :=
  check (s.ilenOutOfRange ∨ s.klenOutOfRange) .lenRegRange s <|
  check (s.needTooLarge s.n) .capacity s <|
  check ((cleanKey s.key).length = 0) .emptyVigenereKey s <|
  ok (deliver (f s.input (cleanKey s.key)) s)

/-- VIGTE (45_legacy_caesar_vigenere R267). -/
def execVigte (s : State) : Out := vigenereCommand (fun d ck => vigText d ck 1) s

/-- VIGTD (45_legacy_caesar_vigenere R268). -/
def execVigtd (s : State) : Out := vigenereCommand (fun d ck => vigText d ck (-1)) s

/-- VIGBE (45_legacy_caesar_vigenere R270). -/
def execVigbe (s : State) : Out := vigenereCommand (fun d ck => vigBin d ck 1) s

/-- VIGBD (45_legacy_caesar_vigenere R271). -/
def execVigbd (s : State) : Out := vigenereCommand (fun d ck => vigBin d ck (-1)) s

end Sys2Proof.Machine
end

