-- ==== Sys2Proof/Machine/Gfm.lean ====
section
/-! DEFINITION. The Galois-field multiplier (unit GFM, 40_gf_multiplier) and its command GFMUL. -/

namespace Sys2Proof.Machine

open Sys2Proof

/-- The accumulator and the two operands between two iterations of `gmul` (40_gf_multiplier R130). -/
structure GmulVars where
  acc : Byte
  a : Byte
  b : Byte
deriving DecidableEq, Repr

/-- One iteration of `gmul` (40_gf_multiplier R130). -/
def gmulStep (v : GmulVars) : GmulVars :=
  let doubled : BitVec 9 := v.a.setWidth 9 <<< 1
  { acc := if v.b.getLsbD 0 then v.acc ^^^ v.a else v.acc
    a := (if doubled.getLsbD 8 then doubled ^^^ 0x11B#9 else doubled).setWidth 8
    b := v.b >>> 1 }

/-- The product in GF(2^8) (40_gf_multiplier R130): eight iterations, whatever the operands. -/
def gmul (a b : Byte) : Byte := (gmulStep^[8] ⟨0#8, a, b⟩).acc

/-- GFMUL a, b (40_gf_multiplier R131). -/
def execGfmul (a b : Byte) (s : State) : Out := ok { s with res := gmul a b }

end Sys2Proof.Machine
end

