-- ==== Sys2Proof/Machine/Act.lean ====
section
/-! DEFINITION. The AES core transform (unit ACT, 41_aes_core_transform): the substitution tables, the transforms of the
state matrix, and the commands LDST, STST, SUBB, ISUBB, SHROW, ISHROW, MIXC, IMIXC and ARK. -/

namespace Sys2Proof.Machine

open Sys2Proof

/-- SBOX, sixteen bytes a row, row Rx of 41_aes_core_transform R141 read from left to right. -/
def sboxRows : List Nat :=
  [0x637c777bf26b6fc53001672bfed7ab76, 0xca82c97dfa5947f0add4a2af9ca472c0] ++
  [0xb7fd9326363ff7cc34a5e5f171d83115, 0x04c723c31896059a071280e2eb27b275] ++
  [0x09832c1a1b6e5aa0523bd6b329e32f84, 0x53d100ed20fcb15b6acbbe394a4c58cf] ++
  [0xd0efaafb434d338545f9027f503c9fa8, 0x51a3408f929d38f5bcb6da2110fff3d2] ++
  [0xcd0c13ec5f974417c4a77e3d645d1973, 0x60814fdc222a908846eeb814de5e0bdb] ++
  [0xe0323a0a4906245cc2d3ac629195e479, 0xe7c8376d8dd54ea96c56f4ea657aae08] ++
  [0xba78252e1ca6b4c6e8dd741f4bbd8b8a, 0x703eb5664803f60e613557b986c11d9e] ++
  [0xe1f8981169d98e949b1e87e9ce5528df, 0x8ca1890dbfe6426841992d0fb054bb16]

/-- INVSBOX, laid out in the same way (41_aes_core_transform R142). -/
def invSboxRows : List Nat :=
  [0x52096ad53036a538bf40a39e81f3d7fb, 0x7ce339829b2fff87348e4344c4dee9cb] ++
  [0x547b9432a6c2233dee4c950b42fac34e, 0x082ea16628d924b2765ba2496d8bd125] ++
  [0x72f8f66486689816d4a45ccc5d65b692, 0x6c704850fdedb9da5e154657a78d9d84] ++
  [0x90d8ab008cbcd30af7e45805b8b34506, 0xd02c1e8fca3f0f02c1afbd0301138a6b] ++
  [0x3a9111414f67dcea97f2cfcef0b4e673, 0x96ac7422e7ad3585e2f937e81c75df6e] ++
  [0x47f11a711d29c5896fb7620eaa18be1b, 0xfc563e4bc6d279209adbc0fe78cd5af4] ++
  [0x1fdda8338807c731b11210592780ec5f, 0x60517fa919b54a0d2de57a9f93c99cef] ++
  [0xa0e03b4dae2af5b0c8ebbb3c83539961, 0x172b047eba77d626e169146355210c7d]

/-- Entry `0xRC` of a table of rows: row Rx, column xC (41_aes_core_transform R141). -/
def tableEntry (rows : List Nat) (v : Byte) : Byte :=
  BitVec.ofNat 8 (rows.getD (v.toNat / 16) 0 / 256 ^ (15 - v.toNat % 16))

/-- SBOX[v] (41_aes_core_transform R141). -/
def sbox (v : Byte) : Byte := tableEntry sboxRows v

/-- INVSBOX[v] (41_aes_core_transform R142). -/
def invSbox (v : Byte) : Byte := tableEntry invSboxRows v

/-- `ginv`: the multiplicative inverse in GF(2^8), 0 for 0 (40_gf_multiplier R132, 41_aes_core_transform R155). -/
def ginv (a : Byte) : Byte :=
  (((List.range 256).map (BitVec.ofNat 8)).find? fun b => gmul a b = 1#8).getD 0#8

/-- The affine-inverse map that generates SBOX (41_aes_core_transform R155). -/
def affineInverse (x : Byte) : Byte :=
  let b := ginv x
  b ^^^ b.rotateLeft 1 ^^^ b.rotateLeft 2 ^^^ b.rotateLeft 3 ^^^ b.rotateLeft 4 ^^^ 0x63#8

/-- The matrix whose element in row r, column c is `f r c`. -/
def Matrix.ofFn (f : Fin 4 → Fin 4 → Byte) : Matrix := Quad.ofFn fun r => Quad.ofFn (f r)

/-- `S[r][c]` (00_scope R7). -/
def Matrix.at (S : Matrix) (r c : Fin 4) : Byte := (Quad.get S r).get c

/-- `toState`: column-major, STATE[r][c] = b[r + 4c] (10_state R23). Defined for a block of 16 bytes. -/
def toState (b : List Byte) : Matrix := Matrix.ofFn fun r c => b.getD (r.val + 4 * c.val) 0#8

/-- `fromState`: b[i] = S[i mod 4][i div 4] (10_state R23). -/
def fromState (S : Matrix) : List Byte :=
  ([0, 1, 2, 3] : List (Fin 4)).flatMap fun c => ([0, 1, 2, 3] : List (Fin 4)).map fun r => S.at r c

/-- 41_aes_core_transform R145. -/
def subBytes (S : Matrix) : Matrix := Matrix.ofFn fun r c => sbox (S.at r c)

/-- 41_aes_core_transform R146. -/
def invSubBytes (S : Matrix) : Matrix := Matrix.ofFn fun r c => invSbox (S.at r c)

/-- 41_aes_core_transform R147: row r rotates left by r; the sum of column numbers is modulo 4. -/
def shiftRows (S : Matrix) : Matrix := Matrix.ofFn fun r c => S.at r (c + r)

/-- 41_aes_core_transform R148: row r rotates right by r; the difference of column numbers is modulo 4. -/
def invShiftRows (S : Matrix) : Matrix := Matrix.ofFn fun r c => S.at r (c - r)

/-- FWD, the first row of the forward mixing matrix (41_aes_core_transform R149). -/
def fwd : Quad Byte := ⟨0x02#8, 0x03#8, 0x01#8, 0x01#8⟩

/-- INVC, the first row of the inverse mixing matrix (41_aes_core_transform R151). -/
def invc : Quad Byte := ⟨0x0e#8, 0x0b#8, 0x0d#8, 0x09#8⟩

/-- The mixing matrix with first row `k`, each row the one above rotated right: M[r][j] = k[(j - r) mod 4]
(41_aes_core_transform R149, R151). -/
def mixMatrix (k : Quad Byte) (r j : Fin 4) : Byte := k.get (j - r)

/-- The product of a mixing matrix and each column: XOR over j of gmul(M[r][j], S[j][c]) (41_aes_core_transform R150). -/
def mixWith (k : Quad Byte) (S : Matrix) : Matrix :=
  Matrix.ofFn fun r c =>
    gmul (mixMatrix k r 0) (S.at 0 c) ^^^ gmul (mixMatrix k r 1) (S.at 1 c) ^^^
      gmul (mixMatrix k r 2) (S.at 2 c) ^^^ gmul (mixMatrix k r 3) (S.at 3 c)

/-- 41_aes_core_transform R150. -/
def mixColumns (S : Matrix) : Matrix := mixWith fwd S

/-- 41_aes_core_transform R152. -/
def invMixColumns (S : Matrix) : Matrix := mixWith invc S

/-- 41_aes_core_transform R153: element-wise XOR. -/
def addRoundKey (S K : Matrix) : Matrix := Matrix.ofFn fun r c => S.at r c ^^^ K.at r c

/-- `RK[i]` (10_state R24). Defined for a word of the schedule. -/
def wordAt (W : List KeyWord) (i : Nat) : KeyWord := W.getD i ⟨0#8, 0#8, 0#8, 0#8⟩

/-- `roundKey(W, rd)`: column c is word 4 rd + c, row r is byte r of that word (10_state R26). -/
def roundKey (W : List KeyWord) (rd : Nat) : Matrix := Matrix.ofFn fun r c => (wordAt W (4 * rd + c.val)).get r

/-- What the six transform commands share (41_aes_core_transform R140): STATE <- f(STATE), StateInvalid if STV = 0. -/
def transform (f : Matrix → Matrix) (s : State) : Out :=
  match s.aesState with
  | none => raise .stateInvalid s
  | some S => ok { s with aesState := some (f S) }

/-- LDST (41_aes_core_transform R143). -/
def execLdst (s : State) : Out :=
  check s.ilenOutOfRange .lenRegRange s <|
  check (s.n ≠ 16) .length s <|
  ok { s with aesState := some (toState s.input) }

/-- STST (41_aes_core_transform R144). -/
def execStst (s : State) : Out :=
  match s.aesState with
  | none => raise .stateInvalid s
  | some S => ok (deliver (fromState S) s)

/-- SUBB (41_aes_core_transform R145). -/
def execSubb (s : State) : Out := transform subBytes s

/-- ISUBB (41_aes_core_transform R146). -/
def execIsubb (s : State) : Out := transform invSubBytes s

/-- SHROW (41_aes_core_transform R147). -/
def execShrow (s : State) : Out := transform shiftRows s

/-- ISHROW (41_aes_core_transform R148). -/
def execIshrow (s : State) : Out := transform invShiftRows s

/-- MIXC (41_aes_core_transform R150). -/
def execMixc (s : State) : Out := transform mixColumns s

/-- IMIXC (41_aes_core_transform R152). -/
def execImixc (s : State) : Out := transform invMixColumns s

/-- ARK rd (41_aes_core_transform R153). -/
def execArk (ridx : BitVec 4) (s : State) : Out :=
  match s.aesState, s.rk with
  | none, _ => raise .stateInvalid s
  | some _, none => raise .roundKeysInvalid s
  | some S, some sch =>
    check (ridxOutOfRange ridx sch.size) .roundIndex s <|
    ok { s with aesState := some (addRoundKey S (roundKey sch.words ridx.toNat)) }

end Sys2Proof.Machine
end

