-- ==== Sys2Proof/Machine/Aks.lean ====
section
/-! DEFINITION. The AES key schedule (unit AKS, 42_aes_key_schedule): the round constants, the expansion of a key, and
the commands KEXP, KCLR and RDRK. -/

namespace Sys2Proof.Machine

open Sys2Proof

/-- RCON (42_aes_key_schedule R171). -/
def rconTable : List Byte := [0x01#8, 0x02#8, 0x04#8, 0x08#8, 0x10#8, 0x20#8, 0x40#8, 0x80#8, 0x1b#8, 0x36#8]

/-- RCON[i]; i is 0 to 9 (42_aes_key_schedule R171). -/
def rcon (i : Nat) : Byte := rconTable.getD i 0#8

/-- 42_aes_key_schedule R172. -/
def rotWord (w : KeyWord) : KeyWord := ⟨w.x1, w.x2, w.x3, w.x0⟩

/-- 42_aes_key_schedule R172. -/
def subWord (w : KeyWord) : KeyWord := ⟨sbox w.x0, sbox w.x1, sbox w.x2, sbox w.x3⟩

/-- 42_aes_key_schedule R172. -/
def xorWord (w v : KeyWord) : KeyWord := ⟨w.x0 ^^^ v.x0, w.x1 ^^^ v.x1, w.x2 ^^^ v.x2, w.x3 ^^^ v.x3⟩

/-- The round constant goes into byte 0 of the word (42_aes_key_schedule R171). -/
def xorRcon (w : KeyWord) (i : Nat) : KeyWord := { w with x0 := w.x0 ^^^ rcon i }

/-- The key's words, four bytes each in order (42_aes_key_schedule R170, 20_memory R61). -/
def keyWords : List Byte → List KeyWord
  | b0 :: b1 :: b2 :: b3 :: rest => ⟨b0, b1, b2, b3⟩ :: keyWords rest
  | _ => []

/-- Word i of the schedule from the words before it, i being their number (42_aes_key_schedule R170). -/
def nextWord (nk : Nat) (W : List KeyWord) : KeyWord :=
  let i := W.length
  let prev := wordAt W (i - 1)
  let t :=
    if i % nk = 0 then xorRcon (subWord (rotWord prev)) (i / nk - 1)
    else if nk = 8 ∧ i % nk = 4 then subWord prev
    else prev
  xorWord t (wordAt W (i - nk))

/-- `expandKey(k)`: the 4(N+1) words (42_aes_key_schedule R170). Defined for a key of the size's length. -/
def expandKey (size : KeySize) (k : List Byte) : List KeyWord :=
  let nk := size.bytes / 4
  (fun W => W ++ [nextWord nk W])^[4 * (size.rounds + 1) - nk] (keyWords k)

/-- The schedule of a key (10_state R24, R25). -/
def scheduleOf (size : KeySize) (k : List Byte) : Schedule := ⟨size, expandKey size k⟩

/-- KEXP bits (42_aes_key_schedule R173). -/
def execKexp (ks : BitVec 2) (s : State) : Out :=
  check s.klenOutOfRange .lenRegRange s <|
  match keySizeOf ks with
  | none => raise .keySizeSelect s
  | some size =>
    check (s.kn ≠ size.bytes) .keyLength s <|
    ok { s with rk := some (scheduleOf size s.key) }

/-- KCLR (42_aes_key_schedule R175). -/
def execKclr (s : State) : Out := ok (endSession s)

/-- RDRK rd (42_aes_key_schedule R174). -/
def execRdrk (ridx : BitVec 4) (s : State) : Out :=
  match s.rk with
  | none => raise .roundKeysInvalid s
  | some sch =>
    check (ridxOutOfRange ridx sch.size) .roundIndex s <|
    ok (deliver (([0, 1, 2, 3] : List Nat).flatMap fun c => (wordAt sch.words (4 * ridx.toNat + c)).toList) s)

end Sys2Proof.Machine
end

