-- ==== Sys2Proof/Machine/Abe.lean ====
section
/-! DEFINITION. The AES block engine (unit ABE, 43_aes_block_engine): the two block functions and the commands ENCB and
DECB. -/

namespace Sys2Proof.Machine

open Sys2Proof

/-- The body of the round loop of `encryptBlock` (43_aes_block_engine R190). -/
def encRound (W : List KeyWord) (S : Matrix) (rd : Nat) : Matrix :=
  addRoundKey (mixColumns (shiftRows (subBytes S))) (roundKey W rd)

/-- `encryptBlock(b, W, N)` on the state matrix (43_aes_block_engine R190). -/
def encryptMatrix (S : Matrix) (W : List KeyWord) (N : Nat) : Matrix :=
  let S := addRoundKey S (roundKey W 0)
  let S := (List.range' 1 (N - 1)).foldl (encRound W) S
  addRoundKey (shiftRows (subBytes S)) (roundKey W N)

/-- The body of the round loop of `decryptBlock`: the round key comes before InvMixColumns (43_aes_block_engine R191). -/
def decRound (W : List KeyWord) (S : Matrix) (rd : Nat) : Matrix :=
  invMixColumns (addRoundKey (invSubBytes (invShiftRows S)) (roundKey W rd))

/-- `decryptBlock(b, W, N)` on the state matrix (43_aes_block_engine R191). -/
def decryptMatrix (S : Matrix) (W : List KeyWord) (N : Nat) : Matrix :=
  let S := addRoundKey S (roundKey W N)
  let S := (List.range' 1 (N - 1)).reverse.foldl (decRound W) S
  addRoundKey (invSubBytes (invShiftRows S)) (roundKey W 0)

/-- `encryptBlock(b, W, N)` (43_aes_block_engine R190). -/
def encryptBlock (b : List Byte) (W : List KeyWord) (N : Nat) : List Byte :=
  fromState (encryptMatrix (toState b) W N)

/-- `decryptBlock(b, W, N)` (43_aes_block_engine R191). -/
def decryptBlock (b : List Byte) (W : List KeyWord) (N : Nat) : List Byte :=
  fromState (decryptMatrix (toState b) W N)

/-- What ENCB and DECB share (43_aes_block_engine R192, R193). -/
def blockCommand (f : List Byte → List KeyWord → Nat → List Byte) (s : State) : Out :=
  check s.ilenOutOfRange .lenRegRange s <|
  match s.rk with
  | none => raise .roundKeysInvalid s
  | some sch =>
    check (s.n ≠ 16) .length s <|
    ok (dropState (deliver (f s.input sch.words sch.size.rounds) s))

/-- ENCB (43_aes_block_engine R192). -/
def execEncb (s : State) : Out := blockCommand encryptBlock s

/-- DECB (43_aes_block_engine R193). -/
def execDecb (s : State) : Out := blockCommand decryptBlock s

end Sys2Proof.Machine
end

