-- ==== Sys2Proof/Machine/Payload.lean ====
section
/-! DEFINITION. The payload commands of the mode sequencer (unit MSQ, 44_mode_sequencer section 3): AESTE, AESTD, AESFE
and AESFD. Each derives its key, expands it, runs every block of the payload and ends its own session. -/

namespace Sys2Proof.Machine

open Sys2Proof

/-- The first `n` blocks of 16 bytes of d (44_mode_sequencer R218, R233). -/
def blocks : (n : Nat) → List Byte → List (List Byte)
  | 0, _ => []
  | n + 1, d => d.take 16 :: blocks n (d.drop 16)

/-- `ecbEnc(d, W, N)`: each block on its own, concatenated (44_mode_sequencer R218). -/
def ecbEnc (d : List Byte) (W : List KeyWord) (N : Nat) : List Byte :=
  (blocks (d.length / 16) d).flatMap fun b => encryptBlock b W N

/-- `ecbDec(d, W, N)` (44_mode_sequencer R218). -/
def ecbDec (d : List Byte) (W : List KeyWord) (N : Nat) : List Byte :=
  (blocks (d.length / 16) d).flatMap fun b => decryptBlock b W N

/-- The schedule of `session(kb)`: the expansion of the key derived from the passphrase in KBUF (44_mode_sequencer R219). -/
def State.sessionWords (s : State) (size : KeySize) : List KeyWord :=
  expandKey size (deriveKey s.H s.key size.bytes)

/-- The checks that the four payload commands share, and the key size they go on with (44_mode_sequencer R227 to R230):
the length registers, the output need, KS = 3, and an empty passphrase. -/
def payloadChecks (need : Nat) (ks : BitVec 2) (s : State) (k : KeySize → Out) : Out :=
  check (s.ilenOutOfRange ∨ s.klenOutOfRange) .lenRegRange s <|
  check (s.needTooLarge need) .capacity s <|
  match keySizeOf ks with
  | none => raise .keySizeSelect s
  | some size => check (s.kn = 0) .emptyKey s (k size)

/-- AESTE bits (44_mode_sequencer R227). -/
def execAeste (ks : BitVec 2) (s : State) : Out :=
  payloadChecks (2 * paddedLength s.n) ks s fun size =>
  ok (deliver (hexEnc (ecbEnc (padBytes s.input) (s.sessionWords size) size.rounds)) (endSession s))

/-- AESTD bits (44_mode_sequencer R228). Utf8Invalid comes after the session has begun and ended (60_exceptions R332). -/
def execAestd (ks : BitVec 2) (s : State) : Out :=
  payloadChecks (s.n / 2) ks s fun size =>
  match hexDec s.input with
  | none => raise .hexMalformed s
  | some c =>
    check (c.length = 0) .empty s <|
    check (c.length % 16 ≠ 0) .size s <|
    let d := unpadU s.params.textUnpadCorner (ecbDec c (s.sessionWords size) size.rounds)
    check (utf8Valid d = false) .utf8Invalid (endSession s) <|
    ok (deliver d (endSession s))

/-- The output need of AESFE, len(padFile(in)), from ILEN alone (20_memory R72, 44_mode_sequencer R229). -/
def fileNeed (fullblockPad : Bool) (n : Nat) : Nat :=
  if n % 16 = 0 ∧ fullblockPad = false then n else paddedLength n

/-- AESFE bits (44_mode_sequencer R229). -/
def execAesfe (ks : BitVec 2) (s : State) : Out :=
  payloadChecks (fileNeed s.params.fileFullblockPad s.n) ks s fun size =>
  ok (deliver (ecbEnc (padFile s.params.fileFullblockPad s.input) (s.sessionWords size) size.rounds) (endSession s))

/-- AESFD bits (44_mode_sequencer R230). -/
def execAesfd (ks : BitVec 2) (s : State) : Out :=
  payloadChecks s.n ks s fun size =>
  check (s.n % 16 ≠ 0) .size s <|
  let r := unpadV (ecbDec s.input (s.sessionWords size) size.rounds)
  okWarn r.2 (deliver r.1 (endSession s))

end Sys2Proof.Machine
end

