-- ==== Sys2Proof/Machine/Dispatch.lean ====
section
/-! DEFINITION. What each command does: one arm per constructor of Instr. -/

namespace Sys2Proof.Machine

open Sys2Proof

def exec (i : Instr) (s : State) : Host.Outcome State Fault Refusal :=
  match i with
  | .gfmul a b => Sys2Proof.Machine.execGfmul a b s
  | .ldst => Sys2Proof.Machine.execLdst s
  | .stst => Sys2Proof.Machine.execStst s
  | .subb => Sys2Proof.Machine.execSubb s
  | .isubb => Sys2Proof.Machine.execIsubb s
  | .shrow => Sys2Proof.Machine.execShrow s
  | .ishrow => Sys2Proof.Machine.execIshrow s
  | .mixc => Sys2Proof.Machine.execMixc s
  | .imixc => Sys2Proof.Machine.execImixc s
  | .ark ridx => Sys2Proof.Machine.execArk ridx s
  | .kexp ks => Sys2Proof.Machine.execKexp ks s
  | .kclr => Sys2Proof.Machine.execKclr s
  | .rdrk ridx => Sys2Proof.Machine.execRdrk ridx s
  | .encb => Sys2Proof.Machine.execEncb s
  | .decb => Sys2Proof.Machine.execDecb s
  | .pad => Sys2Proof.Machine.execPad s
  | .unpadu => Sys2Proof.Machine.execUnpadu s
  | .unpadv => Sys2Proof.Machine.execUnpadv s
  | .hexe => Sys2Proof.Machine.execHexe s
  | .hexd => Sys2Proof.Machine.execHexd s
  | .u8chk => Sys2Proof.Machine.execU8chk s
  | .kdf ks => Sys2Proof.Machine.execKdf ks s
  | .aeste ks => Sys2Proof.Machine.execAeste ks s
  | .aestd ks => Sys2Proof.Machine.execAestd ks s
  | .aesfe ks => Sys2Proof.Machine.execAesfe ks s
  | .aesfd ks => Sys2Proof.Machine.execAesfd ks s
  | .caese shift => Sys2Proof.Machine.execCaese shift s
  | .caesd shift => Sys2Proof.Machine.execCaesd shift s
  | .vkcln => Sys2Proof.Machine.execVkcln s
  | .vigte => Sys2Proof.Machine.execVigte s
  | .vigtd => Sys2Proof.Machine.execVigtd s
  | .vigbe => Sys2Proof.Machine.execVigbe s
  | .vigbd => Sys2Proof.Machine.execVigbd s
  | .ksgen => Sys2Proof.Machine.execKsgen s
  | .kste => Sys2Proof.Machine.execKste s
  | .kstd => Sys2Proof.Machine.execKstd s
  | .ksb => Sys2Proof.Machine.execKsb s
  | .sniff => Sys2Proof.Machine.execSniff s

end Sys2Proof.Machine
end

