-- ==== Sys2Proof/Machine/HostPort.lean ====
section
/-! DEFINITION. What the core does with one host action (20_memory R63): issuing a command word (10_state R35,
30_encoding R106) and the accesses to registers and buffers. -/

namespace Sys2Proof.Machine

open Sys2Proof

/-- The CMD write: decode the word and run the command it encodes (10_state R35, 30_encoding R106). An undefined word is
reported like every other error (30_encoding R99, R100). -/
def issue (w : Word32) (s : State) : Out :=
  match decode w with
  | .error .badOpcode => raise .badOpcode s
  | .error .reservedBits => raise .reservedBits s
  | .ok i => exec i s

/-- One host action or the reset event (20_memory R63, 70_reset R360). A read changes nothing of the core; `reply` is
where the model keeps what it returns. -/
def hostAct (a : HostAction) (s : State) : Out :=
  match a with
  | .writeBuf space i v => .next (hostSetBuf s space i v)
  | .readBuf space i => .next { s with reply := some (.byte (hostBufByte s space i)) }
  | .writeReg n v => if n = 0 then issue v s else .next (hostSetReg s n v)
  | .readReg n => .next { s with reply := some (.word (hostRegWord s n)) }
  | .reset => .next (hostReset s)

end Sys2Proof.Machine
end

