-- ==== Sys2Proof/Machine/Step.lean ====
section
/-! DEFINITION. One step: the host's next action (00_scope R9, 20_memory R66). The machine has no program counter and
fetches nothing (10_state R40); what comes next is the host's, held in State.inbox (log entry 1). -/

namespace Sys2Proof.Machine

open Sys2Proof

/-- Take the host's oldest action and perform it; with none left the core waits (60_exceptions R330: "the core waits for
the next command"). -/
def step (s : State) : Host.Outcome State Fault Refusal :=
  match s.inbox with
  | [] => .next s
  | a :: rest => hostAct a { s with inbox := rest }

/-- The state whose next host action issues the word that the table row's bits spell (log entry 1). -/
def State.withFetchWord (s : State) (nbits w : Nat) : State :=
  { s with inbox := .writeReg 0 (tableWord nbits w) :: s.inbox }

end Sys2Proof.Machine
end

