-- ==== Sys2Proof/Machine/Assembly.lean ====
section
/-! DEFINITION. The way listings are written (30_encoding section 5): the assembler syntax of R103, the pseudo-instructions
of R104 and the host directives of R105. None of them has an encoding of its own; they expand to commands and to host
actions. -/

namespace Sys2Proof.Machine

open Sys2Proof

/-- The mnemonic of a command (30_encoding R98). -/
def mnemonic : Instr → String
  | .gfmul _ _ => "GFMUL"
  | .ldst => "LDST"
  | .stst => "STST"
  | .subb => "SUBB"
  | .isubb => "ISUBB"
  | .shrow => "SHROW"
  | .ishrow => "ISHROW"
  | .mixc => "MIXC"
  | .imixc => "IMIXC"
  | .ark _ => "ARK"
  | .kexp _ => "KEXP"
  | .kclr => "KCLR"
  | .rdrk _ => "RDRK"
  | .encb => "ENCB"
  | .decb => "DECB"
  | .pad => "PAD"
  | .unpadu => "UNPADU"
  | .unpadv => "UNPADV"
  | .hexe => "HEXE"
  | .hexd => "HEXD"
  | .u8chk => "U8CHK"
  | .kdf _ => "KDF"
  | .aeste _ => "AESTE"
  | .aestd _ => "AESTD"
  | .aesfe _ => "AESFE"
  | .aesfd _ => "AESFD"
  | .caese _ => "CAESE"
  | .caesd _ => "CAESD"
  | .vkcln => "VKCLN"
  | .vigte => "VIGTE"
  | .vigtd => "VIGTD"
  | .vigbe => "VIGBE"
  | .vigbd => "VIGBD"
  | .ksgen => "KSGEN"
  | .kste => "KSTE"
  | .kstd => "KSTD"
  | .ksb => "KSB"
  | .sniff => "SNIFF"

/-- The spelling of a key size (30_encoding R103): its bits, and KS3 for the reserved code. -/
def asmKeySize (ks : BitVec 2) : String :=
  match keySizeOf ks with
  | some .k128 => "128"
  | some .k192 => "192"
  | some .k256 => "256"
  | none => "KS3"

/-- The operands of a command as a listing spells them, numbers in decimal (30_encoding R103). -/
def asmOperands : Instr → String
  | .gfmul a b => " " ++ toString a.toNat ++ ", " ++ toString b.toNat
  | .ark ridx => " " ++ toString ridx.toNat
  | .rdrk ridx => " " ++ toString ridx.toNat
  | .kexp ks => " " ++ asmKeySize ks
  | .kdf ks => " " ++ asmKeySize ks
  | .aeste ks => " " ++ asmKeySize ks
  | .aestd ks => " " ++ asmKeySize ks
  | .aesfe ks => " " ++ asmKeySize ks
  | .aesfd ks => " " ++ asmKeySize ks
  | .caese shift => " " ++ toString shift.toNat
  | .caesd shift => " " ++ toString shift.toNat
  | .ldst => ""
  | .stst => ""
  | .subb => ""
  | .isubb => ""
  | .shrow => ""
  | .ishrow => ""
  | .mixc => ""
  | .imixc => ""
  | .kclr => ""
  | .encb => ""
  | .decb => ""
  | .pad => ""
  | .unpadu => ""
  | .unpadv => ""
  | .hexe => ""
  | .hexd => ""
  | .u8chk => ""
  | .vkcln => ""
  | .vigte => ""
  | .vigtd => ""
  | .vigbe => ""
  | .vigbd => ""
  | .ksgen => ""
  | .kste => ""
  | .kstd => ""
  | .ksb => ""
  | .sniff => ""

/-- A command as a line of a listing (30_encoding R103). -/
def asm (i : Instr) : String := mnemonic i ++ asmOperands i

/-- `AESROUND rd` (30_encoding R104). -/
def aesround (rd : BitVec 4) : List Instr := [.subb, .shrow, .mixc, .ark rd]

/-- `AESFINAL rd` (30_encoding R104). -/
def aesfinal (rd : BitVec 4) : List Instr := [.subb, .shrow, .ark rd]

/-- `IAESROUND rd` (30_encoding R104). -/
def iaesround (rd : BitVec 4) : List Instr := [.ishrow, .isubb, .ark rd, .imixc]

/-- `IAESFINAL` (30_encoding R104). -/
def iaesfinal : List Instr := [.ishrow, .isubb, .ark 0]

/-- `AESENC1 bits` (30_encoding R104). -/
def aesenc1 (ks : BitVec 2) : List Instr := [.kexp ks, .encb, .kclr]

/-- `AESDEC1 bits` (30_encoding R104). -/
def aesdec1 (ks : BitVec 2) : List Instr := [.kexp ks, .decb, .kclr]

/-- The commands that spell ENCB by hand for N rounds, without the final store (43_aes_block_engine R192). -/
def encryptByHand (N : Nat) : List Instr :=
  [.ldst, .ark 0] ++ ((List.range' 1 (N - 1)).flatMap fun rd => aesround (BitVec.ofNat 4 rd)) ++
    aesfinal (BitVec.ofNat 4 N) ++ [.stst]

/-- The commands that spell DECB by hand for N rounds (43_aes_block_engine R193). -/
def decryptByHand (N : Nat) : List Instr :=
  [.ldst, .ark (BitVec.ofNat 4 N)] ++
    ((List.range' 1 (N - 1)).reverse.flatMap fun rd => iaesround (BitVec.ofNat 4 rd)) ++ iaesfinal ++ [.stst]

/-- The host action that issues a command (10_state R35). -/
def issueAction (i : Instr) : HostAction := .writeReg 0 (encode i)

/-- The byte writes of a directive, from index `i` on (30_encoding R105). -/
def writesFrom (space : HostSpace) : (i : Nat) → List Byte → List HostAction
  | _, [] => []
  | i, v :: d => .writeBuf space i v :: writesFrom space (i + 1) d

/-- `.ibuf <bytes>` (30_encoding R105). -/
def ibufDirective (d : List Byte) : List HostAction :=
  writesFrom .ibuf 0 d ++ [.writeReg 2 (BitVec.ofNat 32 d.length)]

/-- `.kbuf <bytes>` (30_encoding R105). -/
def kbufDirective (d : List Byte) : List HostAction :=
  writesFrom .kbuf 0 d ++ [.writeReg 3 (BitVec.ofNat 32 d.length)]

/-- `.ilen n` (30_encoding R105). -/
def ilenDirective (n : Word32) : List HostAction := [.writeReg 2 n]

/-- `.klen n` (30_encoding R105). -/
def klenDirective (n : Word32) : List HostAction := [.writeReg 3 n]

/-- The writes of `.xfer`: OBUF[0..OLEN-1] to IBUF and its length to ILEN (30_encoding R105); it requires
OLEN <= IBUF_CAP. The reads of OBUF that the host makes first change nothing of the core. -/
def xferDirective (s : State) : List HostAction := ibufDirective s.output

end Sys2Proof.Machine
end

