-- ==== Sys2Proof/Safety.lean ====
section
/-! DEFINITION. The terms that claims use: the invariant of the machine, what a safe run is, what a command leaves
unchanged, and the tables of the spec that speak about all commands at once (20_memory R60, R72, 60_exceptions R323). -/

namespace Sys2Proof.Machine

open Sys2Proof

/-- The seventeen causes (60_exceptions R321). -/
def allCauses : List Cause :=
  [.keyLength, .emptyKey, .shiftRange, .emptyVigenereKey, .keySizeSelect, .hexMalformed, .size, .empty, .utf8Invalid,
   .badOpcode, .reservedBits, .capacity, .stateInvalid, .roundKeysInvalid, .roundIndex, .length, .lenRegRange]

/-- The words that STATUS can hold: 0 after reset, OK with or without WARN, and the (ERR, CAUSE) pairs of
60_exceptions R321 written out (10_state R34, 93 U15). -/
def legalStatus : List Word32 :=
  [0x000#32, 0x200#32, 0x300#32, 0x011#32, 0x021#32, 0x031#32, 0x041#32, 0x051#32, 0x012#32, 0x022#32, 0x032#32,
   0x013#32, 0x015#32, 0x025#32, 0x035#32, 0x045#32, 0x055#32, 0x065#32, 0x075#32, 0x085#32]

/-- The invariant. No run leaves it: the buffers are in canonical form and within their capacities, OBUF lists exactly the
bytes below OLEN, a schedule has its N + 1 round keys (10_state R24), STATUS is legal and an error leaves OLEN = 0
(60_exceptions R330), and the parameters meet 00_scope R6. -/
structure State.Inv (s : State) : Prop where
  ibuf_wf : Memory.wf s.ibuf = true
  ibuf_below : Memory.below s.params.ibufCap s.ibuf = true
  kbuf_wf : Memory.wf s.kbuf = true
  kbuf_below : Memory.below s.params.kbufCap s.kbuf = true
  obuf_wf : Memory.wf s.obuf = true
  obuf_keys : s.obuf.map Prod.fst = List.range s.olen.toNat
  olen_cap : s.olen.toNat ≤ s.params.obufCap
  schedule_length : ∀ sch, s.rk = some sch → sch.words.length = 4 * (sch.size.rounds + 1)
  status_legal : s.status ∈ legalStatus
  error_empties : s.err ≠ 0 → s.olen = 0#32
  params_valid : s.params.Valid

/-- A run of k steps is safe: it reaches a state, and that state meets the invariant. -/
def SafeRun (k : Nat) (s : State) : Prop := ∃ t : State, Host.Core.run core k s = .next t ∧ t.Inv

/-- The commands of a list one after the other (each as if the host issued it; no host action between them). -/
def runCommands : List Instr → State → Out
  | [], s => .next s
  | i :: rest, s =>
    match exec i s with
    | .next t => runCommands rest t
    | .fault r => .fault r
    | .refused r => .refused r

/-- The host's inputs read as before: IBUF, ILEN, KBUF, KLEN (10_state R32). -/
def SameInputs (s t : State) : Prop :=
  t.ilen = s.ilen ∧ t.klen = s.klen ∧ (∀ j, t.ibufByte j = s.ibufByte j) ∧ ∀ j, t.kbufByte j = s.kbufByte j

/-- OBUF and OLEN read as before. -/
def SameOutput (s t : State) : Prop := t.olen = s.olen ∧ ∀ j, t.obufByte j = s.obufByte j

/-- STATE, STV, RK, RKV and RKS are as before. -/
def SameSession (s t : State) : Prop := t.aesState = s.aesState ∧ t.rk = s.rk

/-- The parameters, the host's coming actions and its last answer are as before. -/
def SameWorld (s t : State) : Prop := t.params = s.params ∧ t.inbox = s.inbox ∧ t.reply = s.reply

/-- STATUS says success with warning bit w and nothing else (10_state R34). -/
def Succeeded (w : Bool) (t : State) : Prop := t.status = if w then 0x300#32 else 0x200#32

/-- The output payload is d: OLEN is its length and OBUF[j] is d[j] (10_state R31). -/
def Delivers (d : List Byte) (t : State) : Prop :=
  t.olen = BitVec.ofNat 32 d.length ∧ ∀ j v, d[j]? = some v → t.obufByte j = v

/-- Nothing is written but OBUF, OLEN and STATUS. -/
def KeepsAllButOutput (s t : State) : Prop := t.res = s.res ∧ SameSession s t ∧ SameInputs s t ∧ SameWorld s t

/-- Nothing is written but OBUF, OLEN, STATUS, and RKV and STV, which become 0 (44_mode_sequencer R219). -/
def ClosesSession (s t : State) : Prop :=
  t.res = s.res ∧ t.aesState = none ∧ t.rk = none ∧ SameInputs s t ∧ SameWorld s t

/-- Success of a command, with warning bit w, that delivers d and writes nothing else but STATUS. -/
def DeliversOnly (w : Bool) (d : List Byte) (s t : State) : Prop :=
  Succeeded w t ∧ Delivers d t ∧ KeepsAllButOutput s t

/-- Success of a command, with warning bit w, that delivers d, closes the session and writes nothing else but STATUS. -/
def DeliversAndCloses (w : Bool) (d : List Byte) (s t : State) : Prop :=
  Succeeded w t ∧ Delivers d t ∧ ClosesSession s t

/-- Success of a command that writes nothing but STATE and STATUS. -/
def ChangesStateOnly (s t : State) : Prop :=
  Succeeded false t ∧ t.rk = s.rk ∧ t.res = s.res ∧ SameOutput s t ∧ SameInputs s t ∧ SameWorld s t

/-- The command ended with the error that STATUS word w reports, and did what 60_exceptions R330 says, nothing else. -/
def FailsWith (w : Word32) (s t : State) : Prop :=
  t.status = w ∧ t.olen = 0#32 ∧ t.res = s.res ∧ SameSession s t ∧ SameInputs s t ∧ SameWorld s t

/-- AESTD's late error: STATUS = 0x13, nothing delivered, and the session closed as on success (60_exceptions R332). -/
def FailsLate (s t : State) : Prop := t.status = 0x013#32 ∧ t.olen = 0#32 ∧ ClosesSession s t

/-- From s the first check of the list whose condition holds is reported, with its STATUS word and nothing else done; if
none holds, t is as P says (60_exceptions R326: "reports the first that fails"). -/
def Checked (s : State) : List (Prop × Word32) → (State → Prop) → State → Prop
  | [], P, t => P t
  | (bad, w) :: rest, P, t => (bad → FailsWith w s t) ∧ (¬ bad → Checked s rest P t)

/-- In every state command i has a next state t: the first failing check reported, or else what P says of s and t. -/
def Follows (i : Instr) (checks : State → List (Prop × Word32)) (P : State → State → Prop) : Prop :=
  ∀ s : State, ∃ t, exec i s = .next t ∧ Checked s (checks s) (P s) t

/-- Word w decodes to command i, and i is encoded as w. -/
def SpeltBy (w : Word32) (i : Instr) : Prop := decode w = .ok i ∧ encode i = w

/-- Command i replaces STATE by the matrix whose element in row r, column c is f S r c, S being the old STATE; with
STV = 0 it reports StateInvalid (41_aes_core_transform R140). -/
def TransformsBy (i : Instr) (f : Matrix → Fin 4 → Fin 4 → Byte) : Prop :=
  Follows i (fun s => [(s.stv = false, 0x045#32)]) fun s t =>
    ∃ S T, s.aesState = some S ∧ t.aesState = some T ∧ (∀ r c, T.at r c = f S r c) ∧ ChangesStateOnly s t

/-- Block j of a byte sequence, its bytes 16 j to 16 j + 15. -/
def blockOf (j : Nat) (d : List Byte) : List Byte := (d.drop (16 * j)).take 16

/-- The last byte p of d is 1 to 16, not above len(d), and the last p bytes of d all equal it (44_mode_sequencer R212). -/
def EndsInPadding (d : List Byte) : Prop :=
  ∃ p : Byte, 1 ≤ p.toNat ∧ p.toNat ≤ 16 ∧ p.toNat ≤ d.length ∧ d.drop (d.length - p.toNat) = List.replicate p.toNat p

/-- The sixteen lower-case digits, "0123456789abcdef" (44_mode_sequencer R214). -/
def hexDigits : List Byte :=
  [0x30#8, 0x31#8, 0x32#8, 0x33#8, 0x34#8, 0x35#8, 0x36#8, 0x37#8, 0x38#8, 0x39#8, 0x61#8, 0x62#8, 0x63#8, 0x64#8,
   0x65#8, 0x66#8]

/-- The upper-case digits of the values 10 to 15 (44_mode_sequencer R215). -/
def upperHexDigits : List Byte := [0x41#8, 0x42#8, 0x43#8, 0x44#8, 0x45#8, 0x46#8]

/-- Character ch is a digit of value v, upper-case or lower-case (44_mode_sequencer R215). -/
def IsDigit (ch : Byte) (v : Nat) : Prop := hexDigits[v]? = some ch ∨ (10 ≤ v ∧ upperHexDigits[v - 10]? = some ch)

/-- d is a concatenation of sequences, each of which matches a row of the table of 44_mode_sequencer R216. -/
def IsUtf8 (d : List Byte) : Prop :=
  ∃ seqs : List (List Byte), d = seqs.flatten ∧
    ∀ q ∈ seqs, ∃ row ∈ utf8Rows, List.Forall₂ (fun b r => r.1 ≤ b.toNat ∧ b.toNat ≤ r.2) q row

/-- The number of letters among the first i bytes of d: the key cursor of `vigText` at byte i
(45_legacy_caesar_vigenere R266). -/
def lettersBefore (i : Nat) (d : List Byte) : Nat := (d.take i).countP fun v => decide (isUpper v ∨ isLower v)

/-- The illegal opcodes as 30_encoding R99 lists them. -/
def illegalOpcode (o : Nat) : Bool :=
  o = 0x00 || (0x02 ≤ o && o ≤ 0x0F) || (0x19 ≤ o && o ≤ 0x1F) || (0x23 ≤ o && o ≤ 0x2F) || (0x32 ≤ o && o ≤ 0x3F) ||
  o = 0x47 || (0x4C ≤ o && o ≤ 0x4F) || o = 0x53 || (0x58 ≤ o && o ≤ 0x5F) || (0x65 ≤ o && o ≤ 0xFF)

/-- The reserved bits of each format, the fields marked 0 in 30_encoding R91. -/
def reservedBitsOf : Format → Word32
  | .N => 0xFFFFFF00#32
  | .G => 0xFF000000#32
  | .R => 0xFFF0FF00#32
  | .K => 0xFFFFFC00#32
  | .C => 0xFF00FF00#32

/-- The commands of the IBUF row of 20_memory R60: those that read IBUF or ILEN. -/
def readsInput : Instr → Bool
  | .ldst | .encb | .decb | .pad | .unpadu | .unpadv | .hexe | .hexd | .u8chk => true
  | .aeste _ | .aestd _ | .aesfe _ | .aesfd _ | .caese _ | .caesd _ => true
  | .vigte | .vigtd | .vigbe | .vigbd | .ksgen | .kste | .kstd | .ksb | .sniff => true
  | .gfmul _ _ | .stst | .subb | .isubb | .shrow | .ishrow | .mixc | .imixc | .ark _ => false
  | .kexp _ | .kclr | .rdrk _ | .kdf _ | .vkcln => false

/-- The commands of the KBUF row of 20_memory R60: those that read KBUF. -/
def readsKey : Instr → Bool
  | .kexp _ | .kdf _ | .aeste _ | .aestd _ | .aesfe _ | .aesfd _ => true
  | .vkcln | .vigte | .vigtd | .vigbe | .vigbd | .ksgen | .kste | .kstd | .ksb => true
  | .gfmul _ _ | .ldst | .stst | .subb | .isubb | .shrow | .ishrow | .mixc | .imixc | .ark _ => false
  | .kclr | .rdrk _ | .encb | .decb | .pad | .unpadu | .unpadv | .hexe | .hexd | .u8chk => false
  | .caese _ | .caesd _ | .sniff => false

/-- The output need of the commands that check it, from n = ILEN (20_memory R72); none for the commands whose need never
exceeds OBUF_CAP and for those without output. -/
def needOf (p : Params) (n : Nat) : Instr → Option Nat
  | .pad => some (n + 16 - n % 16)
  | .aeste _ => some (2 * (n + 16 - n % 16))
  | .aesfe _ => some (if n % 16 = 0 ∧ p.fileFullblockPad = false then n else n + 16 - n % 16)
  | .aesfd _ | .unpadu | .unpadv | .caese _ | .caesd _ | .vigte | .vigtd | .vigbe | .vigbd | .ksgen | .ksb => some n
  | .hexe | .kste => some (2 * n)
  | .hexd | .kstd | .aestd _ => some (n / 2)
  | .gfmul _ _ | .ldst | .stst | .subb | .isubb | .shrow | .ishrow | .mixc | .imixc | .ark _ => none
  | .kexp _ | .kclr | .rdrk _ | .encb | .decb | .u8chk | .kdf _ | .vkcln | .sniff => none

/-- The output need of the commands that never exceed OBUF_CAP, 16 bytes or what KS or KLEN says (20_memory R72). -/
def smallNeedOf (klen : Nat) : Instr → Option Nat
  | .stst | .rdrk _ | .encb | .decb => some 16
  | .kdf ks => (keySizeOf ks).map fun size => size.bytes
  | .vkcln => some klen
  | .gfmul _ _ | .ldst | .subb | .isubb | .shrow | .ishrow | .mixc | .imixc | .ark _ | .kexp _ | .kclr => none
  | .pad | .unpadu | .unpadv | .hexe | .hexd | .u8chk | .aeste _ | .aestd _ | .aesfe _ | .aesfd _ => none
  | .caese _ | .caesd _ | .vigte | .vigtd | .vigbe | .vigbd | .ksgen | .kste | .kstd | .ksb | .sniff => none

/-- The commands whose last row of 20_memory R72 says "no output to OBUF". -/
def noOutput : Instr → Bool
  | .gfmul _ _ | .ldst | .subb | .isubb | .shrow | .ishrow | .mixc | .imixc | .ark _ => true
  | .kexp _ | .kclr | .u8chk | .sniff => true
  | .stst | .rdrk _ | .encb | .decb | .pad | .unpadu | .unpadv | .hexe | .hexd | .kdf _ => false
  | .aeste _ | .aestd _ | .aesfe _ | .aesfd _ | .caese _ | .caesd _ | .vkcln => false
  | .vigte | .vigtd | .vigbe | .vigbd | .ksgen | .kste | .kstd | .ksb => false

/-- The errors of a decoded command, in the order it checks them (60_exceptions R323; ReservedBits is the decoder's). -/
def causesOf : Instr → List Cause
  | .gfmul _ _ | .kclr => []
  | .ldst => [.lenRegRange, .length]
  | .stst | .subb | .isubb | .shrow | .ishrow | .mixc | .imixc => [.stateInvalid]
  | .ark _ => [.stateInvalid, .roundKeysInvalid, .roundIndex]
  | .kexp _ => [.lenRegRange, .keySizeSelect, .keyLength]
  | .rdrk _ => [.roundKeysInvalid, .roundIndex]
  | .encb | .decb => [.lenRegRange, .roundKeysInvalid, .length]
  | .pad | .unpadv | .hexe => [.lenRegRange, .capacity]
  | .unpadu => [.lenRegRange, .capacity, .empty]
  | .hexd => [.lenRegRange, .capacity, .hexMalformed]
  | .u8chk => [.lenRegRange, .utf8Invalid]
  | .kdf _ => [.lenRegRange, .keySizeSelect, .emptyKey]
  | .aeste _ | .aesfe _ => [.lenRegRange, .capacity, .keySizeSelect, .emptyKey]
  | .aestd _ =>
    [.lenRegRange, .capacity, .keySizeSelect, .emptyKey, .hexMalformed, .empty, .size, .utf8Invalid]
  | .aesfd _ => [.lenRegRange, .capacity, .keySizeSelect, .emptyKey, .size]
  | .caese _ | .caesd _ => [.lenRegRange, .capacity, .shiftRange]
  | .vkcln => [.lenRegRange, .emptyVigenereKey]
  | .vigte | .vigtd | .vigbe | .vigbd => [.lenRegRange, .capacity, .emptyVigenereKey]
  | .ksgen | .kste | .ksb => [.lenRegRange, .capacity, .emptyKey]
  | .kstd => [.lenRegRange, .capacity, .emptyKey, .hexMalformed, .utf8Invalid]
  | .sniff => [.lenRegRange]

/-- The commands that may change STATE or STV (10_state R22, 70_reset R366). -/
def mayChangeState : Instr → Bool
  | .ldst | .subb | .isubb | .shrow | .ishrow | .mixc | .imixc | .ark _ => true
  | .kclr | .encb | .decb | .aeste _ | .aestd _ | .aesfe _ | .aesfd _ => true
  | .gfmul _ _ | .stst | .kexp _ | .rdrk _ | .pad | .unpadu | .unpadv | .hexe | .hexd | .u8chk | .kdf _ => false
  | .caese _ | .caesd _ | .vkcln | .vigte | .vigtd | .vigbe | .vigbd => false
  | .ksgen | .kste | .kstd | .ksb | .sniff => false

/-- The commands that may change RK, RKV or RKS (10_state R25, 70_reset R366). -/
def mayChangeSchedule : Instr → Bool
  | .kexp _ | .kclr | .aeste _ | .aestd _ | .aesfe _ | .aesfd _ => true
  | .gfmul _ _ | .ldst | .stst | .subb | .isubb | .shrow | .ishrow | .mixc | .imixc | .ark _ => false
  | .rdrk _ | .encb | .decb | .pad | .unpadu | .unpadv | .hexe | .hexd | .u8chk | .kdf _ => false
  | .caese _ | .caesd _ | .vkcln | .vigte | .vigtd | .vigbe | .vigbd => false
  | .ksgen | .kste | .kstd | .ksb | .sniff => false

/-- What the commands do with a field value that is not legal, every check before the field's own being passed: KS = 3 is
KeySizeSelect, RIDX above N is RoundIndex, SHIFT outside 1 to 25 is ShiftRange (30_encoding R97, R100). -/
def IllegalFieldsAreRefused : Prop :=
  (∀ (i : Instr) (ks : BitVec 2) (s : State),
    i ∈ [Instr.kexp ks, .kdf ks, .aeste ks, .aestd ks, .aesfe ks, .aesfd ks] → ks = 3 →
    s.n ≤ s.params.ibufCap → s.kn ≤ s.params.kbufCap →
    (∀ need, needOf s.params s.n i = some need → need ≤ s.params.obufCap) →
    ∃ t, exec i s = .next t ∧ FailsWith 0x051#32 s t) ∧
  (∀ (i : Instr) (rd : BitVec 4) (s : State) (sch : Schedule), i = .ark rd ∨ i = .rdrk rd → s.stv = true →
    s.rk = some sch → sch.size.rounds < rd.toNat → ∃ t, exec i s = .next t ∧ FailsWith 0x065#32 s t) ∧
  (∀ (i : Instr) (x : Byte) (s : State), i = .caese x ∨ i = .caesd x → ¬ (1 ≤ x.toNat ∧ x.toNat ≤ 25) →
    s.n ≤ s.params.ibufCap → s.n ≤ s.params.obufCap → ∃ t, exec i s = .next t ∧ FailsWith 0x031#32 s t)

end Sys2Proof.Machine
end

