-- ==== Sys2Proof/Certificates/Slice0/Obligations.lean ====
section
/-! DEFINITION. The statements about the model, from the numbered rules of spec/. `Follows i checks P` says of a command
that in every state it has a next state: the first failing check of the list is reported with the STATUS word written
beside it (60_exceptions R321: CAUSE in bits 7:4, ERR in bits 3:0) and nothing else is done (R330), and where no check
fails the state is as P says, frame included. Where a statement speaks of s.inbox it uses the model's form of the host
(log entry 1): the head of the list is the action that the step performs. Bytes of OBUF from OLEN up are unspecified
(10_state R33), so no statement says anything of them after a delivery. -/

open Sys2Proof Sys2Proof.Machine

/-! ## Encoding (30_encoding) -/

/-- Decoding a command's word gives the command, with every operand at every value of its field. -/
def Obligations.DecodeOfEncodeIsTheCommand : Prop := ∀ i : Instr, decode (encode i) = .ok i

/-- A word that decodes to a command is the one word that spells it: no bit of the word is dropped. -/
def Obligations.EncodeOfDecodeIsTheWord : Prop := ∀ (w : Word32) (i : Instr), decode w = .ok i → encode i = w

/-- R99: the illegal opcodes are those listed and no others, and issuing a word with one reports BadOpcode. -/
def Obligations.IllegalOpcodeReportsBadOpcode : Prop :=
  (∀ o : Nat, o < 256 → (illegalOpcode o = true ↔ ∀ i : Instr, i.opcode.toNat ≠ o)) ∧
  (∀ (w : Word32) (s : State), illegalOpcode (w.toNat % 256) = true →
    ∃ t, issue w s = .next t ∧ FailsWith 0x015#32 s t) ∧
  decode 0x00000000#32 = .error .badOpcode ∧ decode 0xFFFFFFFF#32 = .error .badOpcode

/-- R100: a legal opcode with a reserved bit set reports ReservedBits; without one it decodes, whatever its fields hold,
and a field value that R97 calls illegal is refused by the command's own check. -/
def Obligations.ReservedBitReportsReservedBits : Prop :=
  (∀ (i : Instr) (w : Word32) (s : State), opcField w = i.opcode → w &&& reservedBitsOf i.format ≠ 0 →
    ∃ t, issue w s = .next t ∧ FailsWith 0x025#32 s t) ∧
  (∀ (i : Instr) (w : Word32), opcField w = i.opcode → w &&& reservedBitsOf i.format = 0 →
    ∃ j, decode w = .ok j ∧ j.opcode = i.opcode) ∧
  (∀ (i : Instr) (s : State), i.wellFormed = false →
    ∃ t, ∃ c ∈ causesOf i, exec i s = .next t ∧ FailsWith (errorStatus c) s t) ∧
  IllegalFieldsAreRefused

/-- R97: every field is the number its bits spell; the key-size codes; what an illegal value reports. -/
def Obligations.FieldsAreUnsignedBits : Prop :=
  (∀ (w : Word32) (a b : Byte), decode w = .ok (.gfmul a b) →
    a.toNat = w.toNat / 2 ^ 8 % 256 ∧ b.toNat = w.toNat / 2 ^ 16 % 256) ∧
  (∀ (w : Word32) (r : BitVec 4), decode w = .ok (.ark r) ∨ decode w = .ok (.rdrk r) →
    r.toNat = w.toNat / 2 ^ 16 % 16) ∧
  (∀ (w : Word32) (ks : BitVec 2),
    decode w = .ok (.kexp ks) ∨ decode w = .ok (.kdf ks) ∨ decode w = .ok (.aeste ks) ∨
      decode w = .ok (.aestd ks) ∨ decode w = .ok (.aesfe ks) ∨ decode w = .ok (.aesfd ks) →
    ks.toNat = w.toNat / 2 ^ 8 % 4) ∧
  (∀ (w : Word32) (x : Byte), decode w = .ok (.caese x) ∨ decode w = .ok (.caesd x) →
    x.toNat = w.toNat / 2 ^ 16 % 256) ∧
  (keySizeOf 0 = some .k128 ∧ KeySize.k128.bytes = 16 ∧ KeySize.k128.rounds = 10) ∧
  (keySizeOf 1 = some .k192 ∧ KeySize.k192.bytes = 24 ∧ KeySize.k192.rounds = 12) ∧
  (keySizeOf 2 = some .k256 ∧ KeySize.k256.bytes = 32 ∧ KeySize.k256.rounds = 14) ∧
  keySizeOf 3 = none ∧
  (∀ size : KeySize, size.rounds < (15 : BitVec 4).toNat) ∧
  IllegalFieldsAreRefused

/-- Words written out from R91, R98 and R103: one of each format and of each family, and two that are refused. -/
def Obligations.SampleWordsDecode : Prop :=
  decodeTableWord 32 0x00000012 = some .subb ∧
  decodeTableWord 32 0x00835701 = some (.gfmul 0x57#8 0x83#8) ∧
  decodeTableWord 32 0x000A0018 = some (.ark 10) ∧
  decodeTableWord 32 0x00000120 = some (.kexp 1) ∧
  decodeTableWord 32 0x00000031 = some .decb ∧
  decodeTableWord 32 0x00000248 = some (.aeste 2) ∧
  decodeTableWord 32 0x00030050 = some (.caese 3) ∧
  decodeTableWord 32 0x00000061 = some .kste ∧
  decodeTableWord 32 0x00000047 = none ∧
  decodeTableWord 32 0x00000112 = none

/-! ## The machine (10_state, 20_memory, 70_reset_and_hazards) -/

/-- A step whose next host action writes CMD with a word that decodes to i is exec of i, the action being taken from the
list; a table row's word placed by withFetchWord runs the same way; with no action left the core waits. (The list of host
actions is the model's own form, log entry 1.) -/
def Obligations.StepRunsTheDecodedCommand : Prop :=
  (∀ (s : State) (w : Word32) (rest : List HostAction) (i : Instr), s.inbox = .writeReg 0 w :: rest →
    decode w = .ok i → step s = exec i { s with inbox := rest }) ∧
  (∀ (s : State) (nbits w : Nat) (i : Instr), decodeTableWord nbits w = some i →
    step (s.withFetchWord nbits w) = exec i s) ∧
  (∀ s : State, s.inbox = [] → step s = .next s)

/-- Nothing in the model is stuck: every step has a next state, whatever the state and the host's action. -/
def Obligations.EveryStepHasANextState : Prop := ∀ s : State, ∃ t, step s = .next t

/-- The state after reset meets the invariant. -/
def Obligations.InvariantHoldsAtReset : Prop := State.Inv State.reset

/-- Every step keeps the invariant: the buffers' canonical form and bounds, the bytes below OLEN and no others in OBUF,
N + 1 round keys in a schedule, a STATUS word that R321 allows, no output after an error, legal parameters. -/
def Obligations.StepKeepsTheInvariant : Prop := ∀ s t : State, s.Inv → step s = .next t → t.Inv

/-- From every state that meets the invariant, every run of any length reaches a state that meets it. -/
def Obligations.EveryRunIsSafe : Prop := ∀ (k : Nat) (s : State), s.Inv → SafeRun k s

/-- R43: the values after reset, in the state that the machine starts from and after a reset event in any state (the event
being the head of s.inbox, the model's form of it, log entry 1). -/
def Obligations.ResetLeavesTheSpecsValues : Prop :=
  ∀ t : State,
    (t = State.reset ∨ ∃ (s : State) (rest : List HostAction), s.inbox = .reset :: rest ∧ step s = .next t) →
    t.stv = false ∧ t.rkv = false ∧ t.res = 0x00#8 ∧ t.ilen = 0#32 ∧ t.klen = 0#32 ∧ t.olen = 0#32 ∧
      t.status = 0x00000000#32

/-- R36: what a host read of each register number returns, and what a host write of it does (the action being the head of
s.inbox and the answer going to reply, the model's form of them, log entries 1 and 7). -/
def Obligations.HostReachesRegistersByNumber : Prop :=
  (∀ (s : State) (rest : List HostAction) (n : Nat), s.inbox = .readReg n :: rest →
    step s = .next { s with
      inbox := rest
      reply := some (.word ([0#32, s.status, s.ilen, s.klen, s.olen, s.res.setWidth 32].getD n 0#32)) }) ∧
  (∀ (s : State) (rest : List HostAction) (v : Word32), s.inbox = .writeReg 0 v :: rest →
    step s = issue v { s with inbox := rest }) ∧
  (∀ (s : State) (rest : List HostAction) (v : Word32), s.inbox = .writeReg 2 v :: rest →
    step s = .next { s with inbox := rest, ilen := v }) ∧
  (∀ (s : State) (rest : List HostAction) (v : Word32), s.inbox = .writeReg 3 v :: rest →
    step s = .next { s with inbox := rest, klen := v }) ∧
  (∀ (s : State) (rest : List HostAction) (n : Nat) (v : Word32), s.inbox = .writeReg n v :: rest →
    n = 1 ∨ n = 4 ∨ n = 5 ∨ 6 ≤ n → step s = .next { s with inbox := rest }) ∧
  (∀ s : State, s.Inv → s.status.extractLsb' 10 22 = 0#22) ∧
  (State.reset.status = 0#32 ∧ State.reset.ilen = 0#32 ∧ State.reset.klen = 0#32 ∧ State.reset.olen = 0#32 ∧
    State.reset.res = 0#8)

/-- R63 and R64 for the buffers: a host read returns the byte and changes nothing, a host write changes that byte and no
other, and from the capacity up a read returns 0 and a write changes nothing; so do register numbers from 6 up.
The action is the head of s.inbox and the answer goes to reply, the model's form of them (log entries 1 and 7). -/
def Obligations.HostReachesBuffersByIndex : Prop :=
  (∀ (s : State) (rest : List HostAction) (space : Space) (i : Nat), s.inbox = .readBuf space i :: rest →
    ∃ v : Byte, step s = .next { s with inbox := rest, reply := some (.byte v) } ∧
      (s.cap space ≤ i → v = 0#8) ∧
      (i < s.cap space → v = match space with
        | .ibuf => s.ibufByte i
        | .kbuf => s.kbufByte i
        | .obuf => s.obufByte i)) ∧
  (∀ (s : State) (rest : List HostAction) (i : Nat) (v : Byte), s.inbox = .writeBuf .ibuf i v :: rest →
    i < s.params.ibufCap → ∃ m : Memory, step s = .next { s with inbox := rest, ibuf := m } ∧
      ∀ j, State.ibufByte { s with ibuf := m } j = if j = i then v else s.ibufByte j) ∧
  (∀ (s : State) (rest : List HostAction) (i : Nat) (v : Byte), s.inbox = .writeBuf .kbuf i v :: rest →
    i < s.params.kbufCap → ∃ m : Memory, step s = .next { s with inbox := rest, kbuf := m } ∧
      ∀ j, State.kbufByte { s with kbuf := m } j = if j = i then v else s.kbufByte j) ∧
  (∀ (s : State) (rest : List HostAction) (i : Nat) (v : Byte),
    (s.inbox = .writeBuf .ibuf i v :: rest ∧ s.params.ibufCap ≤ i) ∨
      (s.inbox = .writeBuf .kbuf i v :: rest ∧ s.params.kbufCap ≤ i) →
    step s = .next { s with inbox := rest }) ∧
  (∀ (s : State) (rest : List HostAction) (n : Nat) (v : Word32), 6 ≤ n →
    (s.inbox = .readReg n :: rest → step s = .next { s with inbox := rest, reply := some (.word 0#32) }) ∧
      (s.inbox = .writeReg n v :: rest → step s = .next { s with inbox := rest }))

/-- R105: what the directives .ibuf, .kbuf, .ilen, .klen and .xfer leave (their actions being at the head of s.inbox, the
model's form of them, log entry 1). -/
def Obligations.DirectivesLoadPayloads : Prop :=
  (∀ (s : State) (d : List Byte) (rest : List HostAction), s.inbox = ibufDirective d ++ rest → s.params.Valid →
    d.length ≤ s.params.ibufCap →
    ∃ t : State, Host.Core.run core (d.length + 1) s = .next t ∧ t.input = d ∧ t.inbox = rest ∧ t.klen = s.klen ∧
      (∀ j, t.kbufByte j = s.kbufByte j) ∧ SameSession s t ∧ SameOutput s t ∧ t.res = s.res ∧ t.status = s.status) ∧
  (∀ (s : State) (d : List Byte) (rest : List HostAction), s.inbox = kbufDirective d ++ rest → s.params.Valid →
    d.length ≤ s.params.kbufCap →
    ∃ t : State, Host.Core.run core (d.length + 1) s = .next t ∧ t.key = d ∧ t.inbox = rest ∧ t.ilen = s.ilen ∧
      (∀ j, t.ibufByte j = s.ibufByte j) ∧ SameSession s t ∧ SameOutput s t ∧ t.res = s.res ∧ t.status = s.status) ∧
  (∀ (s : State) (n : Word32) (rest : List HostAction), s.inbox = ilenDirective n ++ rest →
    step s = .next { s with inbox := rest, ilen := n }) ∧
  (∀ (s : State) (n : Word32) (rest : List HostAction), s.inbox = klenDirective n ++ rest →
    step s = .next { s with inbox := rest, klen := n }) ∧
  (∀ (s : State) (rest : List HostAction), s.inbox = xferDirective s ++ rest → s.params.Valid →
    s.olen.toNat ≤ s.params.ibufCap →
    ∃ t : State, Host.Core.run core (s.olen.toNat + 1) s = .next t ∧ t.input = s.output ∧ t.ilen = s.olen ∧
      t.inbox = rest)

/-- A command's outcome depends on the payload, the key, STATE, RK, RES, the output before it and the parameters alone:
two states that agree on these, whatever else they hold (stale bytes of IBUF and KBUF, unspecified bytes of OBUF, STATUS,
the host's actions), end with the same STATUS, RES, STATE, RK and output. -/
def Obligations.StaleBytesNeverMatter : Prop :=
  ∀ (i : Instr) (s s' : State), s.ilen = s'.ilen → s.input = s'.input → s.klen = s'.klen → s.key = s'.key →
    SameSession s s' → s.res = s'.res → s.olen = s'.olen → s.output = s'.output → s.params = s'.params →
    ∃ t t', exec i s = .next t ∧ exec i s' = .next t' ∧ t.status = t'.status ∧ t.res = t'.res ∧ SameSession t t' ∧
      t.olen = t'.olen ∧ t.output = t'.output

/-- R32: a command never writes the host's buffers and length registers, and no host action but the issue of a command
(and the reset event) writes what is the core's. -/
def Obligations.CoreAndHostOwnTheirState : Prop :=
  (∀ (i : Instr) (s : State), ∃ t, exec i s = .next t ∧ SameInputs s t) ∧
  (∀ (a : HostAction) (s : State), (∀ v, a ≠ .writeReg 0 v) → a ≠ .reset →
    ∃ t, hostAct a s = .next t ∧ SameSession s t ∧ t.res = s.res ∧ SameOutput s t ∧ t.status = s.status)

/-! ## Errors, flags and ranges (60_exceptions, 20_memory) -/

/-- R321, R324, R330 to R332: every command, in every state, succeeds, or reports one of the causes of its row and changes
nothing but STATUS and OLEN; the one other way is AESTD's Utf8Invalid, which also closes the session. WARN is set by
UNPADV and AESFD alone. The codes are those of R321. -/
def Obligations.EveryCommandSucceedsOrReportsOneCause : Prop :=
  allCauses.map errorStatus =
    [0x011#32, 0x021#32, 0x031#32, 0x041#32, 0x051#32, 0x012#32, 0x022#32, 0x032#32, 0x013#32, 0x015#32, 0x025#32,
     0x035#32, 0x045#32, 0x055#32, 0x065#32, 0x075#32, 0x085#32] ∧
  (∀ c : Cause, c ∈ allCauses) ∧
  ∀ (i : Instr) (s : State), ∃ t, exec i s = .next t ∧
    (Succeeded false t ∨
      (Succeeded true t ∧ (i = .unpadv ∨ ∃ ks, i = .aesfd ks)) ∨
      (∃ c ∈ causesOf i, FailsWith (errorStatus c) s t ∧ ∀ ks, i = .aestd ks → c ≠ .utf8Invalid) ∨
      (∃ ks, i = .aestd ks ∧ FailsLate s t))

/-- R28: RES is written by GFMUL with the product and by SNIFF with 0x01 or 0x00, by no other command and by no host
action but reset, which leaves 0x00. -/
def Obligations.OnlyGfmulAndSniffWriteRes : Prop :=
  (∀ (i : Instr) (s : State), (∀ a b, i ≠ .gfmul a b) → i ≠ .sniff → ∃ t, exec i s = .next t ∧ t.res = s.res) ∧
  (∀ (a b : Byte) (s : State), ∃ t, exec (.gfmul a b) s = .next t ∧ t.res = gmul a b) ∧
  (∀ s : State, s.n ≤ s.params.ibufCap →
    ∃ t, exec .sniff s = .next t ∧ (t.res = 0x01#8 ∨ t.res = 0x00#8) ∧ (t.res = 0x01#8 ↔ sniff s.input = true)) ∧
  (∀ (a : HostAction) (s : State), (∀ v, a ≠ .writeReg 0 v) → a ≠ .reset → ∃ t, hostAct a s = .next t ∧ t.res = s.res) ∧
  State.reset.res = 0x00#8

/-- R73: the check of the length registers comes first and covers exactly the buffers of R60's rows; commands that read
neither buffer ignore both registers. -/
def Obligations.LengthRegistersAreCheckedFirst : Prop :=
  (∀ (i : Instr) (s : State),
    (readsInput i = true ∧ s.ilen.toNat > s.params.ibufCap) ∨ (readsKey i = true ∧ s.klen.toNat > s.params.kbufCap) →
    ∃ t, exec i s = .next t ∧ FailsWith 0x085#32 s t) ∧
  (∀ (i : Instr) (s : State), (readsInput i = true → s.ilen.toNat ≤ s.params.ibufCap) →
    (readsKey i = true → s.klen.toNat ≤ s.params.kbufCap) → ∃ t, exec i s = .next t ∧ t.status ≠ 0x085#32) ∧
  (∀ (i : Instr) (s : State) (v v' : Word32), readsInput i = false → readsKey i = false →
    ∃ t, exec i s = .next t ∧ exec i { s with ilen := v, klen := v' } = .next { t with ilen := v, klen := v' })

/-- R72: the need of each command from ILEN alone, Capacity exactly when it is above OBUF_CAP (the length registers being
in range), and no more bytes delivered than the need; the small needs never exceed OBUF_CAP, the last row delivers
nothing, and with the default capacities no command reports Capacity. -/
def Obligations.CapacityIsCheckedByNeed : Prop :=
  (∀ (i : Instr) (s : State) (need : Nat), needOf s.params s.n i = some need →
    s.n ≤ s.params.ibufCap → (readsKey i = true → s.kn ≤ s.params.kbufCap) →
    ∃ t, exec i s = .next t ∧ (need > s.params.obufCap → FailsWith 0x035#32 s t) ∧
      (need ≤ s.params.obufCap → t.status ≠ 0x035#32)) ∧
  (∀ (i : Instr) (s : State) (need : Nat), needOf s.params s.n i = some need ∨ smallNeedOf s.kn i = some need →
    ∃ t, exec i s = .next t ∧ t.olen.toNat ≤ need) ∧
  (∀ (i : Instr) (s : State) (need : Nat), s.params.Valid → smallNeedOf s.kn i = some need →
    (readsKey i = true → s.kn ≤ s.params.kbufCap) → need ≤ s.params.obufCap) ∧
  (∀ (i : Instr) (s : State), needOf s.params s.n i = none → ∃ t, exec i s = .next t ∧ t.status ≠ 0x035#32) ∧
  (∀ (i : Instr) (s : State), noOutput i = true →
    ∃ t, exec i s = .next t ∧ (t.okFlag = true → SameOutput s t)) ∧
  (∀ (i : Instr) (s : State), s.params = {} → ∃ t, exec i s = .next t ∧ t.status ≠ 0x035#32)

/-- R22 and R25: which commands leave STV and RKV 0 or 1 and which leave STATE and RK alone, and what a command that needs
STATE or RK reports without it. -/
def Obligations.SessionBitsFollowTheCommands : Prop :=
  (State.reset.stv = false ∧ State.reset.rkv = false) ∧
  (∀ (i : Instr) (s : State), ∃ t, exec i s = .next t ∧
    (mayChangeState i = false → t.aesState = s.aesState) ∧ (mayChangeSchedule i = false → t.rk = s.rk) ∧
    (t.okFlag = true → i = .ldst → t.stv = true) ∧
    (i = .encb ∨ i = .decb → t.okFlag = true → t.stv = false ∧ t.rk = s.rk) ∧
    (i = .kclr ∨ (∃ ks, i = .aeste ks ∨ i = .aestd ks ∨ i = .aesfe ks ∨ i = .aesfd ks) → t.okFlag = true →
      t.stv = false ∧ t.rkv = false) ∧
    (∀ ks, i = .kexp ks → t.okFlag = true → t.rkv = true ∧ t.rks = some ks ∧ t.aesState = s.aesState) ∧
    t.rks ≠ some 3) ∧
  (∀ (i : Instr) (s : State),
    i = .stst ∨ i = .subb ∨ i = .isubb ∨ i = .shrow ∨ i = .ishrow ∨ i = .mixc ∨ i = .imixc ∨ (∃ r, i = .ark r) →
    (s.stv = false → ∃ t, exec i s = .next t ∧ FailsWith 0x045#32 s t) ∧
    (s.stv = true → ∃ t, exec i s = .next t ∧ t.stv = true)) ∧
  (∀ (i : Instr) (s : State), s.rkv = false →
    (i = .encb ∨ i = .decb) ∧ s.n ≤ s.params.ibufCap ∨ (∃ r, i = .rdrk r) ∨ (∃ r, i = .ark r) ∧ s.stv = true →
    ∃ t, exec i s = .next t ∧ FailsWith 0x055#32 s t)

/-! ## The Galois-field multiplier (40_gf_multiplier) -/

/-- R131: GFMUL writes the product to RES and nothing else but STATUS, whatever the state. -/
def Obligations.GfmulWritesTheProduct : Prop :=
  SpeltBy 0x00835701#32 (.gfmul 0x57#8 0x83#8) ∧
  (∀ a b : Byte, Follows (.gfmul a b) (fun _ => []) fun s t =>
    t.res = gmul a b ∧ Succeeded false t ∧ SameOutput s t ∧ SameSession s t ∧ SameInputs s t ∧ SameWorld s t) ∧
  (∀ (w : Word32) (s : State), opcField w = 0x01#8 → w.extractLsb' 24 8 ≠ 0 →
    ∃ t, issue w s = .next t ∧ FailsWith 0x025#32 s t) ∧
  (∀ v : Byte, gmul 0x00#8 v = 0x00#8 ∧ gmul v 0x00#8 = 0x00#8 ∧ gmul 0x01#8 v = v) ∧
  gmul 0x02#8 0x80#8 = 0x1B#8 ∧ gmul 0xFF#8 0xFF#8 = 0x13#8 ∧ gmul 0x57#8 0x83#8 = 0xC1#8

/-- The laws that the spec derives for gmul; with the doubling rule they leave one function only. -/
def Obligations.GmulIsAFieldProduct : Prop :=
  (∀ a b : Byte, gmul a b = gmul b a) ∧
  (∀ a : Byte, gmul a 1#8 = a ∧ gmul a 0#8 = 0#8) ∧
  (∀ a b c : Byte, gmul a (b ^^^ c) = gmul a b ^^^ gmul a c) ∧
  (∀ a b c : Byte, gmul (gmul a b) c = gmul a (gmul b c)) ∧
  (∀ a : Byte, gmul 2#8 a = if a.toNat < 0x80 then a <<< 1 else (a <<< 1) ^^^ 0x1B#8) ∧
  (∀ a : Byte, gmul 3#8 a = gmul 2#8 a ^^^ a) ∧
  (∀ a : Byte, a ≠ 0#8 → ∃ b, gmul a b = 1#8 ∧ ∀ c, gmul a c = 1#8 → c = b) ∧
  (∀ a : Byte, a ≠ 0#8 → gmul a (ginv a) = 1#8) ∧ ginv 0#8 = 0#8

/-! ## The AES core transform (41_aes_core_transform) -/

/-- R143, R144: LDST moves IBUF[0..15] into STATE column by column, STST moves STATE out in the same order and leaves it. -/
def Obligations.LdstAndStstMoveABlock : Prop :=
  SpeltBy 0x00000010#32 .ldst ∧ SpeltBy 0x00000011#32 .stst ∧
  (Follows .ldst (fun s => [(s.n > s.params.ibufCap, 0x085#32), (s.n ≠ 16, 0x075#32)]) fun s t =>
    ∃ T, t.aesState = some T ∧ (∀ r c : Fin 4, T.at r c = s.ibufByte (r.val + 4 * c.val)) ∧ ChangesStateOnly s t) ∧
  (Follows .stst (fun s => [(s.stv = false, 0x045#32)]) fun s t =>
    ∃ S, s.aesState = some S ∧ t.olen = 16#32 ∧ (∀ r c : Fin 4, t.obufByte (r.val + 4 * c.val) = S.at r c) ∧
      Succeeded false t ∧ KeepsAllButOutput s t)

/-- R145, R146: SUBB and ISUBB substitute each byte of STATE. -/
def Obligations.SubbAndIsubbSubstituteEachByte : Prop :=
  SpeltBy 0x00000012#32 .subb ∧ SpeltBy 0x00000013#32 .isubb ∧
  (TransformsBy .subb fun S r c => sbox (S.at r c)) ∧
  (TransformsBy .isubb fun S r c => invSbox (S.at r c))

/-- R142, R155: INVSBOX is the inverse permutation of SBOX, SBOX is the affine-inverse map, and it has neither a fixed nor
an opposite fixed point. -/
def Obligations.SboxIsTheAffineInverseMap : Prop :=
  (∀ v : Byte, invSbox (sbox v) = v ∧ sbox (invSbox v) = v) ∧
  (∀ v : Byte, sbox v = affineInverse v) ∧
  (∀ v : Byte, sbox v ≠ v ∧ sbox v ≠ v ^^^ 0xFF#8) ∧
  invSbox 0xED#8 = 0x53#8 ∧ invSbox 0x00#8 = 0x52#8 ∧ invSbox 0x63#8 = 0x00#8

/-- R147, R148: SHROW rotates row r left by r, ISHROW right by r. -/
def Obligations.ShrowAndIshrowRotateRows : Prop :=
  SpeltBy 0x00000014#32 .shrow ∧ SpeltBy 0x00000015#32 .ishrow ∧
  (TransformsBy .shrow fun S r c => S.at r (Fin.ofNat 4 (c.val + r.val))) ∧
  (TransformsBy .ishrow fun S r c => S.at r (Fin.ofNat 4 (c.val + 4 - r.val)))

/-- R150, R152: MIXC and IMIXC replace each column by the products that the rules write out. -/
def Obligations.MixcAndImixcMultiplyColumns : Prop :=
  SpeltBy 0x00000016#32 .mixc ∧ SpeltBy 0x00000017#32 .imixc ∧
  (TransformsBy .mixc fun S r c =>
    match r with
    | 0 => gmul 0x02#8 (S.at 0 c) ^^^ gmul 0x03#8 (S.at 1 c) ^^^ S.at 2 c ^^^ S.at 3 c
    | 1 => S.at 0 c ^^^ gmul 0x02#8 (S.at 1 c) ^^^ gmul 0x03#8 (S.at 2 c) ^^^ S.at 3 c
    | 2 => S.at 0 c ^^^ S.at 1 c ^^^ gmul 0x02#8 (S.at 2 c) ^^^ gmul 0x03#8 (S.at 3 c)
    | 3 => gmul 0x03#8 (S.at 0 c) ^^^ S.at 1 c ^^^ S.at 2 c ^^^ gmul 0x02#8 (S.at 3 c)) ∧
  (TransformsBy .imixc fun S r c =>
    match r with
    | 0 => gmul 0x0e#8 (S.at 0 c) ^^^ gmul 0x0b#8 (S.at 1 c) ^^^ gmul 0x0d#8 (S.at 2 c) ^^^ gmul 0x09#8 (S.at 3 c)
    | 1 => gmul 0x09#8 (S.at 0 c) ^^^ gmul 0x0e#8 (S.at 1 c) ^^^ gmul 0x0b#8 (S.at 2 c) ^^^ gmul 0x0d#8 (S.at 3 c)
    | 2 => gmul 0x0d#8 (S.at 0 c) ^^^ gmul 0x09#8 (S.at 1 c) ^^^ gmul 0x0e#8 (S.at 2 c) ^^^ gmul 0x0b#8 (S.at 3 c)
    | 3 => gmul 0x0b#8 (S.at 0 c) ^^^ gmul 0x0d#8 (S.at 1 c) ^^^ gmul 0x09#8 (S.at 2 c) ^^^ gmul 0x0e#8 (S.at 3 c))

/-- R153: ARK rd XORs round key rd into STATE: element [r][c] with byte r of word 4 rd + c. -/
def Obligations.ArkAddsTheRoundKey : Prop :=
  SpeltBy 0x00000018#32 (.ark 0) ∧ SpeltBy 0x000A0018#32 (.ark 10) ∧ SpeltBy 0x000E0018#32 (.ark 14) ∧
  ∀ rd : BitVec 4,
    Follows (.ark rd)
      (fun s => [(s.stv = false, 0x045#32), (s.rkv = false, 0x055#32),
        (∃ sch, s.rk = some sch ∧ rd.toNat > sch.size.rounds, 0x065#32)])
      fun s t => ∃ S T sch, s.aesState = some S ∧ t.aesState = some T ∧ s.rk = some sch ∧
        (∀ r c : Fin 4, T.at r c = S.at r c ^^^ (wordAt sch.words (4 * rd.toNat + c.val)).get r) ∧ ChangesStateOnly s t

/-- Inverse pairs: from every state with a value in STATE each pair of commands restores it, and the commands that act on
byte values commute with those that act on positions. -/
def Obligations.TransformPairsUndoEachOther : Prop :=
  (∀ (s : State) (S : Matrix) (i j : Instr), s.aesState = some S →
    (i, j) ∈ [(Instr.subb, Instr.isubb), (.isubb, .subb), (.shrow, .ishrow), (.ishrow, .shrow), (.mixc, .imixc),
      (.imixc, .mixc)] →
    ∃ t, runCommands [i, j] s = .next t ∧ t.aesState = some S) ∧
  (∀ (s : State) (S : Matrix) (sch : Schedule) (rd : BitVec 4), s.aesState = some S → s.rk = some sch →
    rd.toNat ≤ sch.size.rounds → ∃ t, runCommands [.ark rd, .ark rd] s = .next t ∧ t.aesState = some S) ∧
  (∀ s : State, s.stv = true → ∃ t, runCommands [.subb, .shrow] s = .next t ∧
    runCommands [.shrow, .subb] s = .next t) ∧
  (∀ s : State, s.stv = true → ∃ t, runCommands [.isubb, .ishrow] s = .next t ∧
    runCommands [.ishrow, .isubb] s = .next t)

/-! ## The key schedule and the block engine (42_aes_key_schedule, 43_aes_block_engine) -/

/-- R170, R172: the words of an expansion, from the key and from one another. -/
def Obligations.KeyExpansionFollowsTheRecurrence : Prop :=
  ∀ (size : KeySize) (k : List Byte), k.length = size.bytes →
    (expandKey size k).length = 4 * (size.rounds + 1) ∧
    (∀ i : Nat, i < size.bytes / 4 → ∃ b0 b1 b2 b3 : Byte, k[4 * i]? = some b0 ∧ k[4 * i + 1]? = some b1 ∧
      k[4 * i + 2]? = some b2 ∧ k[4 * i + 3]? = some b3 ∧ (expandKey size k)[i]? = some ⟨b0, b1, b2, b3⟩) ∧
    (∀ i : Nat, size.bytes / 4 ≤ i → i < 4 * (size.rounds + 1) →
      ∃ p v w : KeyWord, (expandKey size k)[i - 1]? = some p ∧ (expandKey size k)[i - size.bytes / 4]? = some v ∧
        (expandKey size k)[i]? = some w ∧
        (i % (size.bytes / 4) = 0 → ∃ rc : Byte,
          [0x01#8, 0x02#8, 0x04#8, 0x08#8, 0x10#8, 0x20#8, 0x40#8, 0x80#8, 0x1b#8, 0x36#8][i / (size.bytes / 4) - 1]? =
            some rc ∧
          w = ⟨sbox p.x1 ^^^ rc ^^^ v.x0, sbox p.x2 ^^^ v.x1, sbox p.x3 ^^^ v.x2, sbox p.x0 ^^^ v.x3⟩) ∧
        (i % (size.bytes / 4) ≠ 0 → size.bytes / 4 = 8 → i % 8 = 4 →
          w = ⟨sbox p.x0 ^^^ v.x0, sbox p.x1 ^^^ v.x1, sbox p.x2 ^^^ v.x2, sbox p.x3 ^^^ v.x3⟩) ∧
        (i % (size.bytes / 4) ≠ 0 → ¬ (size.bytes / 4 = 8 ∧ i % 8 = 4) →
          w = ⟨p.x0 ^^^ v.x0, p.x1 ^^^ v.x1, p.x2 ^^^ v.x2, p.x3 ^^^ v.x3⟩))

/-- R173: KEXP writes the expansion of KBUF[0..KLEN-1] to RK, with its size, and nothing else but STATUS. -/
def Obligations.KexpOpensASession : Prop :=
  SpeltBy 0x00000020#32 (.kexp 0) ∧ SpeltBy 0x00000120#32 (.kexp 1) ∧ SpeltBy 0x00000220#32 (.kexp 2) ∧
  ∀ ks : BitVec 2,
    Follows (.kexp ks)
      (fun s => [(s.kn > s.params.kbufCap, 0x085#32), (ks = 3, 0x051#32),
        (∃ size, keySizeOf ks = some size ∧ s.kn ≠ size.bytes, 0x011#32)])
      fun s t => ∃ size, keySizeOf ks = some size ∧ t.rk = some ⟨size, expandKey size s.key⟩ ∧
        t.rkv = true ∧ t.rks = some ks ∧ Succeeded false t ∧ t.aesState = s.aesState ∧ t.res = s.res ∧
        SameOutput s t ∧ SameInputs s t ∧ SameWorld s t

/-- R174, R175: RDRK delivers the four words of a round key, KCLR closes the session whatever was open. -/
def Obligations.RdrkReadsAndKclrClosesASession : Prop :=
  SpeltBy 0x00000022#32 (.rdrk 0) ∧ SpeltBy 0x000A0022#32 (.rdrk 10) ∧ SpeltBy 0x00000021#32 .kclr ∧
  (∀ rd : BitVec 4,
    Follows (.rdrk rd)
      (fun s => [(s.rkv = false, 0x055#32), (∃ sch, s.rk = some sch ∧ rd.toNat > sch.size.rounds, 0x065#32)])
      fun s t => ∃ sch, s.rk = some sch ∧ t.olen = 16#32 ∧
        (∀ c b : Fin 4, t.obufByte (4 * c.val + b.val) = (wordAt sch.words (4 * rd.toNat + c.val)).get b) ∧
        Succeeded false t ∧ KeepsAllButOutput s t) ∧
  (Follows .kclr (fun _ => []) fun s t =>
    t.rkv = false ∧ t.stv = false ∧ Succeeded false t ∧ t.res = s.res ∧ SameOutput s t ∧ SameInputs s t ∧ SameWorld s t)

/-- R192, R193: ENCB and DECB deliver the block function of IBUF[0..15], use STATE up and keep the schedule. -/
def Obligations.EncbAndDecbRunOneBlock : Prop :=
  SpeltBy 0x00000030#32 .encb ∧ SpeltBy 0x00000031#32 .decb ∧
  (Follows .encb (fun s => [(s.n > s.params.ibufCap, 0x085#32), (s.rkv = false, 0x055#32), (s.n ≠ 16, 0x075#32)])
    fun s t => ∃ sch, s.rk = some sch ∧ Succeeded false t ∧
      Delivers (encryptBlock s.input sch.words sch.size.rounds) t ∧ t.olen = 16#32 ∧ t.stv = false ∧ t.rk = s.rk ∧
      t.res = s.res ∧ SameInputs s t ∧ SameWorld s t) ∧
  (Follows .decb (fun s => [(s.n > s.params.ibufCap, 0x085#32), (s.rkv = false, 0x055#32), (s.n ≠ 16, 0x075#32)])
    fun s t => ∃ sch, s.rk = some sch ∧ Succeeded false t ∧
      Delivers (decryptBlock s.input sch.words sch.size.rounds) t ∧ t.olen = 16#32 ∧ t.stv = false ∧ t.rk = s.rk ∧
      t.res = s.res ∧ SameInputs s t ∧ SameWorld s t)

/-- ENCB equals LDST, ARK 0, N - 1 AESROUNDs, AESFINAL N and STST, and DECB its mirror, in everything but STV: with a
schedule open and a block loaded both run to their end, and the states differ in STATE alone. -/
def Obligations.BlockCommandsEqualTheirRoundSequences : Prop :=
  ∀ (s : State) (sch : Schedule), s.rk = some sch → s.n = 16 → s.n ≤ s.params.ibufCap →
    (∃ t u : State, runCommands (encryptByHand sch.size.rounds) s = .next t ∧ exec .encb s = .next u ∧
      t.stv = true ∧ u.stv = false ∧ ({ t with aesState := none } : State) = u) ∧
    (∃ t u : State, runCommands (decryptByHand sch.size.rounds) s = .next t ∧ exec .decb s = .next u ∧
      t.stv = true ∧ u.stv = false ∧ ({ t with aesState := none } : State) = u)

/-- The block functions undo each other on every block, for every schedule. -/
def Obligations.BlockFunctionsUndoEachOther : Prop :=
  ∀ (size : KeySize) (W : List KeyWord) (b : List Byte), b.length = 16 →
    decryptBlock (encryptBlock b W size.rounds) W size.rounds = b ∧
    encryptBlock (decryptBlock b W size.rounds) W size.rounds = b

/-! ## The default hash function (47_hash_port) -/

/-- R311 to R314: the functions of SHA-256, its constants as roots of primes, the padding and the words of a message, the
64 rounds of a chunk, the chaining of the chunks and the order of the digest's bytes. -/
def Obligations.Sha256FollowsItsDefinition : Prop :=
  let rotr : Word32 → Nat → Word32 := fun x n => (x >>> n) ||| (x <<< (32 - n))
  let primes := (List.range 312).filter fun n => decide (2 ≤ n ∧ ∀ d, d < n → 2 ≤ d → n % d ≠ 0)
  let words : Sha256.Eight → List Word32 := fun h => [h.a, h.b, h.c, h.d, h.e, h.f, h.g, h.h]
  (∀ x y z : Word32, Sha256.ch x y z = (x &&& y) ^^^ (~~~ x &&& z) ∧
    Sha256.maj x y z = (x &&& y) ^^^ (x &&& z) ^^^ (y &&& z) ∧
    Sha256.bigSigma0 x = rotr x 2 ^^^ rotr x 13 ^^^ rotr x 22 ∧
    Sha256.bigSigma1 x = rotr x 6 ^^^ rotr x 11 ^^^ rotr x 25 ∧
    Sha256.smallSigma0 x = rotr x 7 ^^^ rotr x 18 ^^^ x >>> 3 ∧
    Sha256.smallSigma1 x = rotr x 17 ^^^ rotr x 19 ^^^ x >>> 10) ∧
  (primes.length = 64 ∧ Sha256.roundConstants.length = 64 ∧
    (∀ (i p : Nat) (k : Word32), primes[i]? = some p → Sha256.roundConstants[i]? = some k →
      ∃ a : Nat, (2 ^ 32 * a + k.toNat) ^ 3 ≤ p * 2 ^ 96 ∧ p * 2 ^ 96 < (2 ^ 32 * a + k.toNat + 1) ^ 3) ∧
    (∀ (i p : Nat) (h : Word32), primes[i]? = some p → (words Sha256.initial)[i]? = some h →
      ∃ a : Nat, (2 ^ 32 * a + h.toNat) ^ 2 ≤ p * 2 ^ 64 ∧ p * 2 ^ 64 < (2 ^ 32 * a + h.toNat + 1) ^ 2)) ∧
  (∀ m : List Byte, ∃ (z : Nat) (lenBytes : List Byte), z < 64 ∧ (m.length + 1 + z) % 64 = 56 ∧ lenBytes.length = 8 ∧
    Sha256.padMessage m = m ++ [0x80#8] ++ List.replicate z 0x00#8 ++ lenBytes ∧
    (8 * m.length < 2 ^ 64 → lenBytes.foldl (fun acc v => 256 * acc + v.toNat) 0 = 8 * m.length)) ∧
  (∀ d : List Byte, (Sha256.wordsOf d).length = d.length / 4 ∧
    ∀ (t : Nat) (b0 b1 b2 b3 : Byte), d[4 * t]? = some b0 → d[4 * t + 1]? = some b1 → d[4 * t + 2]? = some b2 →
      d[4 * t + 3]? = some b3 → ∃ w : Word32, (Sha256.wordsOf d)[t]? = some w ∧
        w.toNat = 2 ^ 24 * b0.toNat + 2 ^ 16 * b1.toNat + 2 ^ 8 * b2.toNat + b3.toNat) ∧
  (∀ (h : Sha256.Eight) (chunk : List Word32), chunk.length = 16 → ∃ (W : List Word32) (v : Nat → Sha256.Eight),
    W.length = 64 ∧ W.take 16 = chunk ∧
    (∀ t, t < 48 → ∃ x2 x7 x15 x16 : Word32, W[t + 14]? = some x2 ∧ W[t + 9]? = some x7 ∧ W[t + 1]? = some x15 ∧
      W[t]? = some x16 ∧ W[t + 16]? = some (Sha256.smallSigma1 x2 + x7 + Sha256.smallSigma0 x15 + x16)) ∧
    v 0 = h ∧
    (∀ t, t < 64 → ∃ k w t1 t2 : Word32, Sha256.roundConstants[t]? = some k ∧ W[t]? = some w ∧
      t1 = (v t).h + Sha256.bigSigma1 (v t).e + Sha256.ch (v t).e (v t).f (v t).g + k + w ∧
      t2 = Sha256.bigSigma0 (v t).a + Sha256.maj (v t).a (v t).b (v t).c ∧
      v (t + 1) = ⟨t1 + t2, (v t).a, (v t).b, (v t).c, (v t).d + t1, (v t).e, (v t).f, (v t).g⟩) ∧
    words (Sha256.compress h chunk) = List.zipWith (fun x y => x + y) (words h) (words (v 64))) ∧
  (∀ m : List Byte, ∃ hs : Nat → Sha256.Eight, hs 0 = Sha256.initial ∧
    (∀ j, j < (Sha256.padMessage m).length / 64 →
      hs (j + 1) = Sha256.compress (hs j) (((Sha256.wordsOf (Sha256.padMessage m)).drop (16 * j)).take 16)) ∧
    ∀ (i : Nat) (w : Word32), (words (hs ((Sha256.padMessage m).length / 64)))[i / 4]? = some w →
      (sha256 m).toList[i]? = some (BitVec.ofNat 8 (w.toNat / 2 ^ (8 * (3 - i % 4)))))

/-! ## Padding and framing (44_mode_sequencer, sections 1 and 2) -/

/-- R210 to R213: the padding of both paths and the two strip policies. -/
def Obligations.PaddingAndStripFunctions : Prop :=
  (∀ d : List Byte,
    padBytes d = d ++ List.replicate (16 - d.length % 16) (BitVec.ofNat 8 (16 - d.length % 16)) ∧
    (padBytes d).length % 16 = 0 ∧ d.length < (padBytes d).length ∧ (padBytes d).length ≤ d.length + 16) ∧
  (∀ (b : Bool) (d : List Byte), padFile b d = if d.length % 16 = 0 ∧ b = false then d else padBytes d) ∧
  (∀ (d e : List Byte) (p : Byte), d = e ++ List.replicate p.toNat p → 1 ≤ p.toNat → p.toNat ≤ 16 →
    unpadV d = (e, false)) ∧
  (∀ d : List Byte, ¬ EndsInPadding d → unpadV d = (d, true)) ∧
  (∀ (corner : UnpadCorner) (e : List Byte) (p : Byte),
    (1 ≤ p.toNat → unpadU corner (e ++ [p]) = (e ++ [p]).take (e.length + 1 - p.toNat)) ∧
    (p.toNat = 0 → corner = .clamp → unpadU corner (e ++ [p]) = e ++ [p]) ∧
    (p.toNat = 0 → corner = .pyslice → unpadU corner (e ++ [p]) = []))

/-- R214, R215: two lower-case digits a byte, the high nibble first; decoding takes digits of both cases and fails on an
odd length or any other character. -/
def Obligations.HexadecimalFunctions : Prop :=
  (∀ d : List Byte, (hexEnc d).length = 2 * d.length ∧
    ∀ (i : Nat) (v : Byte), d[i]? = some v → (hexEnc d)[2 * i]? = hexDigits[v.toNat / 16]? ∧
      (hexEnc d)[2 * i + 1]? = hexDigits[v.toNat % 16]?) ∧
  (∀ t : List Byte, t.length % 2 ≠ 0 → hexDec t = none) ∧
  (∀ (t : List Byte) (i : Nat) (ch : Byte), t[i]? = some ch → (∀ v, ¬ IsDigit ch v) → hexDec t = none) ∧
  (∀ t : List Byte, t.length % 2 = 0 → (∀ ch ∈ t, ∃ v, IsDigit ch v) →
    ∃ d, hexDec t = some d ∧ t.length = 2 * d.length ∧
      ∀ (i hi lo : Nat) (h l : Byte), t[2 * i]? = some h → t[2 * i + 1]? = some l → IsDigit h hi → IsDigit l lo →
        d[i]? = some (BitVec.ofNat 8 (16 * hi + lo)))

/-- R216: a byte sequence is valid iff it is a concatenation of sequences that each match a row of the table. -/
def Obligations.Utf8ValidityIsTheTable : Prop := ∀ d : List Byte, utf8Valid d = true ↔ IsUtf8 d

/-- R220 to R222: PAD, UNPADU and UNPADV deliver the padded or stripped payload and write nothing else but STATUS. -/
def Obligations.PadUnpaduUnpadvDeliver : Prop :=
  SpeltBy 0x00000040#32 .pad ∧ SpeltBy 0x00000041#32 .unpadu ∧ SpeltBy 0x00000042#32 .unpadv ∧
  (Follows .pad (fun s => [(s.n > s.params.ibufCap, 0x085#32), (s.n + 16 - s.n % 16 > s.params.obufCap, 0x035#32)])
    fun s t => DeliversOnly false (padBytes s.input) s t ∧ t.olen = BitVec.ofNat 32 (s.n + 16 - s.n % 16)) ∧
  (Follows .unpadu
    (fun s => [(s.n > s.params.ibufCap, 0x085#32), (s.n > s.params.obufCap, 0x035#32), (s.n = 0, 0x032#32)])
    fun s t => DeliversOnly false (unpadU s.params.textUnpadCorner s.input) s t) ∧
  (Follows .unpadv (fun s => [(s.n > s.params.ibufCap, 0x085#32), (s.n > s.params.obufCap, 0x035#32)])
    fun s t => DeliversOnly (unpadV s.input).2 (unpadV s.input).1 s t)

/-- R223 to R225: HEXE and HEXD deliver, U8CHK judges and writes STATUS only. -/
def Obligations.HexeHexdU8chkFrame : Prop :=
  SpeltBy 0x00000043#32 .hexe ∧ SpeltBy 0x00000044#32 .hexd ∧ SpeltBy 0x00000045#32 .u8chk ∧
  (Follows .hexe (fun s => [(s.n > s.params.ibufCap, 0x085#32), (2 * s.n > s.params.obufCap, 0x035#32)])
    fun s t => DeliversOnly false (hexEnc s.input) s t ∧ t.olen = BitVec.ofNat 32 (2 * s.n)) ∧
  (Follows .hexd
    (fun s => [(s.n > s.params.ibufCap, 0x085#32), (s.n / 2 > s.params.obufCap, 0x035#32),
      (hexDec s.input = none, 0x012#32)])
    fun s t => ∃ d, hexDec s.input = some d ∧ DeliversOnly false d s t ∧ t.olen = BitVec.ofNat 32 (s.n / 2)) ∧
  (Follows .u8chk (fun s => [(s.n > s.params.ibufCap, 0x085#32), (utf8Valid s.input = false, 0x013#32)])
    fun s t => Succeeded false t ∧ t.res = s.res ∧ SameOutput s t ∧ SameSession s t ∧ SameInputs s t ∧ SameWorld s t)

/-- R217, R226: KDF delivers the first 16, 24 or 32 bytes of the hash of KBUF[0..KLEN-1], and writes nothing else but
STATUS. -/
def Obligations.KdfDeliversTheDerivedKey : Prop :=
  SpeltBy 0x00000046#32 (.kdf 0) ∧ SpeltBy 0x00000146#32 (.kdf 1) ∧ SpeltBy 0x00000246#32 (.kdf 2) ∧
  (∀ (H : List Byte → Digest) (pass : List Byte) (size : KeySize),
    (deriveKey H pass size.bytes).length = size.bytes ∧
    ∀ i, i < size.bytes → (deriveKey H pass size.bytes)[i]? = (H pass).toList[i]?) ∧
  ∀ ks : BitVec 2,
    Follows (.kdf ks) (fun s => [(s.kn > s.params.kbufCap, 0x085#32), (ks = 3, 0x051#32), (s.kn = 0, 0x021#32)])
      fun s t => ∃ size, keySizeOf ks = some size ∧ DeliversOnly false (deriveKey s.H s.key size.bytes) s t ∧
        t.olen = BitVec.ofNat 32 size.bytes

/-! ## The payload commands (44_mode_sequencer, section 3) -/

/-- R218: block j of the output is the block function of block j of the input, and of nothing else. -/
def Obligations.PayloadsRunBlockByBlock : Prop :=
  ∀ (d : List Byte) (W : List KeyWord) (N : Nat), d.length % 16 = 0 →
    (ecbEnc d W N).length = d.length ∧ (ecbDec d W N).length = d.length ∧
    (∀ j, j < d.length / 16 → blockOf j (ecbEnc d W N) = encryptBlock (blockOf j d) W N ∧
      blockOf j (ecbDec d W N) = decryptBlock (blockOf j d) W N) ∧
    (∀ e : List Byte, ecbEnc (d ++ e) W N = ecbEnc d W N ++ ecbEnc e W N) ∧
    ecbEnc [] W N = [] ∧ ecbDec [] W N = []

/-- R227, R229: AESTE delivers the hexadecimal of the encrypted padded payload, AESFE the bytes; both close the session. -/
def Obligations.AesteAndAesfeEncryptAPayload : Prop :=
  SpeltBy 0x00000048#32 (.aeste 0) ∧ SpeltBy 0x00000148#32 (.aeste 1) ∧ SpeltBy 0x00000248#32 (.aeste 2) ∧
  SpeltBy 0x0000004A#32 (.aesfe 0) ∧ SpeltBy 0x0000014A#32 (.aesfe 1) ∧ SpeltBy 0x0000024A#32 (.aesfe 2) ∧
  (∀ ks : BitVec 2,
    Follows (.aeste ks)
      (fun s => [(s.n > s.params.ibufCap ∨ s.kn > s.params.kbufCap, 0x085#32),
        (2 * (s.n + 16 - s.n % 16) > s.params.obufCap, 0x035#32), (ks = 3, 0x051#32), (s.kn = 0, 0x021#32)])
      fun s t => ∃ size, keySizeOf ks = some size ∧
        DeliversAndCloses false
          (hexEnc (ecbEnc (padBytes s.input) (expandKey size (deriveKey s.H s.key size.bytes)) size.rounds)) s t ∧
        t.olen = BitVec.ofNat 32 (2 * (s.n + 16 - s.n % 16))) ∧
  (∀ ks : BitVec 2,
    Follows (.aesfe ks)
      (fun s => [(s.n > s.params.ibufCap ∨ s.kn > s.params.kbufCap, 0x085#32),
        ((padFile s.params.fileFullblockPad s.input).length > s.params.obufCap, 0x035#32), (ks = 3, 0x051#32),
        (s.kn = 0, 0x021#32)])
      fun s t => ∃ size, keySizeOf ks = some size ∧
        DeliversAndCloses false
          (ecbEnc (padFile s.params.fileFullblockPad s.input) (expandKey size (deriveKey s.H s.key size.bytes))
            size.rounds) s t ∧
        t.olen = BitVec.ofNat 32 (padFile s.params.fileFullblockPad s.input).length)

/-- R228: AESTD checks the hexadecimal, decrypts, strips unconditionally, and delivers the text if it is valid UTF-8; if
not, Utf8Invalid with the session closed. -/
def Obligations.AestdDecryptsAText : Prop :=
  SpeltBy 0x00000049#32 (.aestd 0) ∧ SpeltBy 0x00000149#32 (.aestd 1) ∧ SpeltBy 0x00000249#32 (.aestd 2) ∧
  ∀ ks : BitVec 2,
    Follows (.aestd ks)
      (fun s => [(s.n > s.params.ibufCap ∨ s.kn > s.params.kbufCap, 0x085#32), (s.n / 2 > s.params.obufCap, 0x035#32),
        (ks = 3, 0x051#32), (s.kn = 0, 0x021#32), (hexDec s.input = none, 0x012#32), (s.n = 0, 0x032#32),
        (s.n / 2 % 16 ≠ 0, 0x022#32)])
      fun s t => ∃ size c d, keySizeOf ks = some size ∧ hexDec s.input = some c ∧
        d = unpadU s.params.textUnpadCorner
          (ecbDec c (expandKey size (deriveKey s.H s.key size.bytes)) size.rounds) ∧
        (utf8Valid d = true → DeliversAndCloses false d s t) ∧ (utf8Valid d = false → FailsLate s t)

/-- R230: AESFD decrypts, strips leniently and delivers the bytes; WARN says that the padding was invalid. -/
def Obligations.AesfdDecryptsAFile : Prop :=
  SpeltBy 0x0000004B#32 (.aesfd 0) ∧ SpeltBy 0x0000014B#32 (.aesfd 1) ∧ SpeltBy 0x0000024B#32 (.aesfd 2) ∧
  ∀ ks : BitVec 2,
    Follows (.aesfd ks)
      (fun s => [(s.n > s.params.ibufCap ∨ s.kn > s.params.kbufCap, 0x085#32), (s.n > s.params.obufCap, 0x035#32),
        (ks = 3, 0x051#32), (s.kn = 0, 0x021#32), (s.n % 16 ≠ 0, 0x022#32)])
      fun s t => ∃ size d w, keySizeOf ks = some size ∧
        (d, w) = unpadV (ecbDec s.input (expandKey size (deriveKey s.H s.key size.bytes)) size.rounds) ∧
        DeliversAndCloses w d s t

/-- Decoding undoes encoding, and both strip policies undo the padding, for every payload. -/
def Obligations.FramingRoundTrips : Prop :=
  ∀ d : List Byte, hexDec (hexEnc d) = some d ∧ unpadV (padBytes d) = (d, false) ∧
    ∀ corner : UnpadCorner, unpadU corner (padBytes d) = d

/-- Text round trip, for every HASH: AESTE succeeds on every payload that fits, and AESTD of its output, with the same
passphrase, key size and parameters, gives the payload back if it is valid UTF-8 and else reports Utf8Invalid. -/
def Obligations.TextRoundTrip : Prop :=
  ∀ (s : State) (ks : BitVec 2), s.params.Valid → ks ≠ 3 → 1 ≤ s.kn → s.kn ≤ s.params.kbufCap →
    s.n ≤ s.params.ibufCap → 2 * (s.n + 16 - s.n % 16) ≤ s.params.obufCap →
    ∃ t, exec (.aeste ks) s = .next t ∧ Succeeded false t ∧
      ∀ s' : State, s'.params = s.params → s'.n ≤ s.params.ibufCap → s'.input = t.output → s'.key = s.key →
        ∃ u, exec (.aestd ks) s' = .next u ∧
          (utf8Valid s.input = true → Succeeded false u ∧ u.output = s.input) ∧
          (utf8Valid s.input = false → FailsLate s' u)

/-- File round trip, for every HASH: AESFD of AESFE's output gives a payload that is no multiple of 16, or any payload
with FILE_FULLBLOCK_PAD = 1, back without a warning, and otherwise the lenient strip of the payload. -/
def Obligations.FileRoundTrip : Prop :=
  ∀ (s : State) (ks : BitVec 2), s.params.Valid → ks ≠ 3 → 1 ≤ s.kn → s.kn ≤ s.params.kbufCap →
    s.n ≤ s.params.ibufCap → (padFile s.params.fileFullblockPad s.input).length ≤ s.params.obufCap →
    ∃ t, exec (.aesfe ks) s = .next t ∧ Succeeded false t ∧
      ∀ s' : State, s'.params = s.params → s'.n ≤ s.params.ibufCap → s'.input = t.output → s'.key = s.key →
        ∃ u, exec (.aesfd ks) s' = .next u ∧
          (s.n % 16 ≠ 0 ∨ s.params.fileFullblockPad = true → Succeeded false u ∧ u.output = s.input) ∧
          (s.n % 16 = 0 → s.params.fileFullblockPad = false → ¬ EndsInPadding s.input →
            Succeeded true u ∧ u.output = s.input) ∧
          (s.n % 16 = 0 → s.params.fileFullblockPad = false → EndsInPadding s.input →
            ∃ p : Byte, s.input.getLast? = some p ∧ Succeeded false u ∧ u.output = s.input.take (s.n - p.toNat))

/-! ## The legacy engines (45_legacy_caesar_vigenere, 46_legacy_keystream) -/

/-- R261 to R263: CAESE and CAESD shift letters within their case's alphabet and leave every other byte. -/
def Obligations.CaeseAndCaesdShiftLetters : Prop :=
  SpeltBy 0x00030050#32 (.caese 3) ∧ SpeltBy 0x00190050#32 (.caese 25) ∧ SpeltBy 0x00030051#32 (.caesd 3) ∧
  (∀ (d : List Byte) (k : Int), (caesar d k).length = d.length ∧
    ∀ (i : Nat) (v : Byte), d[i]? = some v → ∃ w : Byte, (caesar d k)[i]? = some w ∧
      (0x41 ≤ v.toNat ∧ v.toNat ≤ 0x5A → (w.toNat : Int) = 0x41 + ((v.toNat : Int) - 0x41 + k) % 26) ∧
      (0x61 ≤ v.toNat ∧ v.toNat ≤ 0x7A → (w.toNat : Int) = 0x61 + ((v.toNat : Int) - 0x61 + k) % 26) ∧
      (¬ (0x41 ≤ v.toNat ∧ v.toNat ≤ 0x5A) → ¬ (0x61 ≤ v.toNat ∧ v.toNat ≤ 0x7A) → w = v)) ∧
  (∀ x : Byte,
    Follows (.caese x)
      (fun s => [(s.n > s.params.ibufCap, 0x085#32), (s.n > s.params.obufCap, 0x035#32),
        (x.toNat < 1 ∨ x.toNat > 25, 0x031#32)])
      fun s t => DeliversOnly false (caesar s.input x.toNat) s t ∧ t.olen = s.ilen) ∧
  (∀ x : Byte,
    Follows (.caesd x)
      (fun s => [(s.n > s.params.ibufCap, 0x085#32), (s.n > s.params.obufCap, 0x035#32),
        (x.toNat < 1 ∨ x.toNat > 25, 0x031#32)])
      fun s t => DeliversOnly false (caesar s.input (-(x.toNat : Int))) s t ∧ t.olen = s.ilen)

/-- R264, R265: VKCLN delivers the letters of the key in order, upper-cased. -/
def Obligations.VkclnDeliversTheCleanedKey : Prop :=
  SpeltBy 0x00000052#32 .vkcln ∧
  (∀ k : List Byte,
    cleanKey k = (k.filter fun v => decide (isUpper v ∨ isLower v)).map fun v => if isLower v then v - 0x20#8 else v) ∧
  Follows .vkcln (fun s => [(s.kn > s.params.kbufCap, 0x085#32), (cleanKey s.key = [], 0x041#32)])
    fun s t => DeliversOnly false (cleanKey s.key) s t

/-- R266, R269: each byte of the two Vigenere transforms. In text mode the key position is the number of letters before
the byte, in binary mode it is the byte's index. -/
def Obligations.VigenereTransformsEachByte : Prop :=
  ∀ (d ck : List Byte) (sign : Int), ck ≠ [] → (∀ c ∈ ck, isUpper c) → sign = 1 ∨ sign = -1 →
    (vigText d ck sign).length = d.length ∧ (vigBin d ck sign).length = d.length ∧
    ∀ (i : Nat) (v : Byte), d[i]? = some v →
      (∃ c w : Byte, ck[lettersBefore i d % ck.length]? = some c ∧ (vigText d ck sign)[i]? = some w ∧
        (isUpper v → (w.toNat : Int) = 0x41 + ((v.toNat : Int) - 0x41 + sign * ((c.toNat : Int) - 0x41)) % 26) ∧
        (isLower v → (w.toNat : Int) = 0x61 + ((v.toNat : Int) - 0x61 + sign * ((c.toNat : Int) - 0x41)) % 26) ∧
        (¬ isUpper v → ¬ isLower v → w = v)) ∧
      (∃ c w : Byte, ck[i % ck.length]? = some c ∧ (vigBin d ck sign)[i]? = some w ∧
        (w.toNat : Int) = ((v.toNat : Int) + sign * ((c.toNat : Int) - 0x41)) % 256)

/-- R267, R268, R270, R271: the four Vigenere commands clean and check the key, and deliver the transform. -/
def Obligations.VigenereCommandsDeliver : Prop :=
  SpeltBy 0x00000054#32 .vigte ∧ SpeltBy 0x00000055#32 .vigtd ∧ SpeltBy 0x00000056#32 .vigbe ∧
  SpeltBy 0x00000057#32 .vigbd ∧
  ∀ (i : Instr) (f : List Byte → List Byte → List Byte),
    (i, f) = (Instr.vigte, fun d ck => vigText d ck 1) ∨ (i, f) = (Instr.vigtd, fun d ck => vigText d ck (-1)) ∨
      (i, f) = (Instr.vigbe, fun d ck => vigBin d ck 1) ∨ (i, f) = (Instr.vigbd, fun d ck => vigBin d ck (-1)) →
    Follows i
      (fun s => [(s.n > s.params.ibufCap ∨ s.kn > s.params.kbufCap, 0x085#32), (s.n > s.params.obufCap, 0x035#32),
        (cleanKey s.key = [], 0x041#32)])
      fun s t => DeliversOnly false (f s.input (cleanKey s.key)) s t ∧ t.olen = s.ilen

/-- Decryption undoes encryption, and the other laws of the two ciphers. -/
def Obligations.LegacyCiphersUndoThemselves : Prop :=
  (∀ (d : List Byte) (k : Int), caesar (caesar d k) (-k) = d ∧ caesar d (-k) = caesar d (26 - k) ∧ caesar d 26 = d) ∧
  (∀ d k : List Byte, cleanKey k ≠ [] →
    vigText (vigText d (cleanKey k) 1) (cleanKey k) (-1) = d ∧
    vigBin (vigBin d (cleanKey k) 1) (cleanKey k) (-1) = d) ∧
  (∀ k : List Byte, cleanKey (cleanKey k) = cleanKey k) ∧
  (∀ d ck : List Byte, ck ≠ [] → ∀ sign : Int,
    (vigText d ck sign).filter (fun v => decide (isUpper v ∨ isLower v)) =
      vigText (d.filter fun v => decide (isUpper v ∨ isLower v)) ck sign) ∧
  (∀ (d : List Byte) (k : Int), utf8Valid d = true → utf8Valid (caesar d k) = true) ∧
  (∀ (d ck : List Byte) (sign : Int), ck ≠ [] → utf8Valid d = true → utf8Valid (vigText d ck sign) = true)

/-- R290, R292: each byte of the keystream, and the XOR with it. -/
def Obligations.KeystreamBytes : Prop :=
  (∀ c : Nat, c < 2 ^ 32 →
    be32 c = [BitVec.ofNat 8 (c / 2 ^ 24), BitVec.ofNat 8 (c / 2 ^ 16), BitVec.ofNat 8 (c / 2 ^ 8), BitVec.ofNat 8 c]) ∧
  (∀ (H : List Byte → Digest) (c n : Nat) (seed : List Byte), (keystream H c seed n).length = n ∧
    ∀ i, i < n → (keystream H c seed n)[i]? = (H (seed ++ be32 (c + i / 32))).toList[i % 32]?) ∧
  (∀ (H : List Byte → Digest) (c : Nat) (d seed : List Byte), (ksXor H c d seed).length = d.length ∧
    ∀ (i : Nat) (v k : Byte), d[i]? = some v → (keystream H c seed d.length)[i]? = some k →
      (ksXor H c d seed)[i]? = some (v ^^^ k)) ∧
  (∀ p : Params, p.Valid → ∀ n i, n ≤ p.ibufCap → i < n → p.ksCtrInit + i / 32 < 2 ^ 32)

/-- R291, R293 to R295: the four keystream commands. -/
def Obligations.KeystreamCommandsDeliver : Prop :=
  SpeltBy 0x00000060#32 .ksgen ∧ SpeltBy 0x00000061#32 .kste ∧ SpeltBy 0x00000062#32 .kstd ∧ SpeltBy 0x00000063#32 .ksb ∧
  (Follows .ksgen
    (fun s => [(s.n > s.params.ibufCap ∨ s.kn > s.params.kbufCap, 0x085#32), (s.n > s.params.obufCap, 0x035#32),
      (s.kn = 0, 0x021#32)])
    fun s t => DeliversOnly false (keystream s.H s.params.ksCtrInit s.key s.n) s t ∧ t.olen = s.ilen) ∧
  (Follows .kste
    (fun s => [(s.n > s.params.ibufCap ∨ s.kn > s.params.kbufCap, 0x085#32), (2 * s.n > s.params.obufCap, 0x035#32),
      (s.kn = 0, 0x021#32)])
    fun s t => DeliversOnly false (hexEnc (ksXor s.H s.params.ksCtrInit s.input s.key)) s t ∧
      t.olen = BitVec.ofNat 32 (2 * s.n)) ∧
  (Follows .kstd
    (fun s => [(s.n > s.params.ibufCap ∨ s.kn > s.params.kbufCap, 0x085#32), (s.n / 2 > s.params.obufCap, 0x035#32),
      (s.kn = 0, 0x021#32), (hexDec s.input = none, 0x012#32),
      (∃ c, hexDec s.input = some c ∧ utf8Valid (ksXor s.H s.params.ksCtrInit c s.key) = false, 0x013#32)])
    fun s t => ∃ c, hexDec s.input = some c ∧ DeliversOnly false (ksXor s.H s.params.ksCtrInit c s.key) s t ∧
      t.olen = BitVec.ofNat 32 (s.n / 2)) ∧
  (Follows .ksb
    (fun s => [(s.n > s.params.ibufCap ∨ s.kn > s.params.kbufCap, 0x085#32), (s.n > s.params.obufCap, 0x035#32),
      (s.kn = 0, 0x021#32)])
    fun s t => DeliversOnly false (ksXor s.H s.params.ksCtrInit s.input s.key) s t ∧ t.olen = s.ilen)

/-- R296, R297: SNIFF writes 0x01 to RES iff a byte among the first 1024 of the payload is 0x00 or above 0x7F. -/
def Obligations.SniffClassifiesThePayload : Prop :=
  SpeltBy 0x00000064#32 .sniff ∧
  Follows .sniff (fun s => [(s.n > s.params.ibufCap, 0x085#32)]) fun s t =>
    ((∃ i, i < min 1024 s.n ∧ (s.ibufByte i = 0x00#8 ∨ (s.ibufByte i).toNat > 0x7F)) → t.res = 0x01#8) ∧
    ((¬ ∃ i, i < min 1024 s.n ∧ (s.ibufByte i = 0x00#8 ∨ (s.ibufByte i).toNat > 0x7F)) → t.res = 0x00#8) ∧
    Succeeded false t ∧ SameOutput s t ∧ SameSession s t ∧ SameInputs s t ∧ SameWorld s t

/-- Keystream laws, for every HASH: the XOR undoes itself and a shorter keystream is a prefix; KSTD of KSTE's output and
KSB of KSB's output give the payload back, KSTD if it is valid UTF-8 and else Utf8Invalid. -/
def Obligations.KeystreamRoundTrips : Prop :=
  (∀ (H : List Byte → Digest) (c : Nat) (d seed : List Byte), ksXor H c (ksXor H c d seed) seed = d) ∧
  (∀ (H : List Byte → Digest) (c m n : Nat) (seed : List Byte), m ≤ n →
    keystream H c seed m = (keystream H c seed n).take m) ∧
  (∀ s : State, s.params.Valid → 1 ≤ s.kn → s.kn ≤ s.params.kbufCap → s.n ≤ s.params.ibufCap →
    2 * s.n ≤ s.params.obufCap →
    ∃ t, exec .kste s = .next t ∧ Succeeded false t ∧
      ∀ s' : State, s'.params = s.params → s'.n ≤ s.params.ibufCap → s'.input = t.output → s'.key = s.key →
        ∃ u, exec .kstd s' = .next u ∧
          (utf8Valid s.input = true → Succeeded false u ∧ u.output = s.input) ∧
          (utf8Valid s.input = false → FailsWith 0x013#32 s' u)) ∧
  (∀ s : State, s.params.Valid → 1 ≤ s.kn → s.kn ≤ s.params.kbufCap → s.n ≤ s.params.ibufCap →
    s.n ≤ s.params.obufCap →
    ∃ t, exec .ksb s = .next t ∧ Succeeded false t ∧
      ∀ s' : State, s'.params = s.params → s'.input = t.output → s'.key = s.key →
        ∃ u, exec .ksb s' = .next u ∧ Succeeded false u ∧ u.output = s.input)
end

