-- ==== Sys2Proof/Laws/Memory.lean ====
section
/-! SUPPORT. The laws of a buffer's memory: what a read gives after a write, and that every operation keeps the canonical
form. -/

namespace Sys2Proof.Machine

open Sys2Proof

/-- A read after a write (20_memory R63). -/
@[simp] theorem Memory.get?_set (m : Memory) (i k : Nat) (v : Byte) :
    Memory.get? (Memory.set m i v) k = if k = i then some v else Memory.get? m k := by
  induction m with
  | nil => simp [Memory.set, Memory.get?]
  | cons c rest ih =>
    obtain ⟨j, u⟩ := c
    simp only [Memory.set]
    split_ifs <;> simp_all [Memory.get?]

/-- The first index of a memory in canonical form is below all others. -/
theorem Memory.wf_cons {c : Host.Cell} {m : Memory} :
    Memory.wf (c :: m) = true ↔ (∀ d ∈ m, c.1 < d.1) ∧ Memory.wf m = true := by
  induction m generalizing c with
  | nil => simp [Memory.wf]
  | cons d rest ih =>
    simp only [Memory.wf, Bool.and_eq_true, decide_eq_true_eq, List.mem_cons, forall_eq_or_imp]
    constructor
    · rintro ⟨hcd, h⟩
      exact ⟨⟨hcd, fun e he => hcd.trans ((ih.1 h).1 e he)⟩, h⟩
    · rintro ⟨⟨hcd, -⟩, h⟩
      exact ⟨hcd, h⟩

/-- The indices after a write are the old ones and the written one. -/
theorem Memory.mem_set_fst {m : Memory} {i : Nat} {v : Byte} {c : Host.Cell} (h : c ∈ Memory.set m i v) :
    c.1 = i ∨ c ∈ m := by
  induction m with
  | nil => simp_all [Memory.set]
  | cons d rest ih =>
    obtain ⟨j, u⟩ := d
    simp only [Memory.set] at h
    split_ifs at h
    · rcases List.mem_cons.1 h with rfl | h
      · exact .inl rfl
      · exact .inr h
    · rcases List.mem_cons.1 h with rfl | h
      · exact .inl rfl
      · exact .inr (List.mem_cons_of_mem _ h)
    · rcases List.mem_cons.1 h with rfl | h
      · exact .inr List.mem_cons_self
      · exact (ih h).imp_right (List.mem_cons_of_mem _)

/-- A write keeps the canonical form. -/
theorem Memory.set_wf {m : Memory} (i : Nat) (v : Byte) (h : Memory.wf m = true) :
    Memory.wf (Memory.set m i v) = true := by
  induction m with
  | nil => rfl
  | cons d rest ih =>
    obtain ⟨j, u⟩ := d
    obtain ⟨hj, hr⟩ := Memory.wf_cons.1 h
    simp only [Memory.set]
    split_ifs with h1 h2
    · refine Memory.wf_cons.2 ⟨fun e he => ?_, h⟩
      rcases List.mem_cons.1 he with rfl | he
      · exact h1
      · exact h1.trans (hj e he)
    · exact Memory.wf_cons.2 ⟨fun e he => h2 ▸ hj e he, hr⟩
    · refine Memory.wf_cons.2 ⟨fun e he => ?_, ih hr⟩
      rcases Memory.mem_set_fst he with h3 | h3
      · show j < e.1
        omega
      · exact hj e h3

/-- A write below a bound keeps every index below it. -/
theorem Memory.set_below {m : Memory} {n i : Nat} (v : Byte) (hi : i < n) (h : Memory.below n m = true) :
    Memory.below n (Memory.set m i v) = true := by
  simp only [Memory.below, List.all_eq_true, decide_eq_true_eq] at *
  intro c hc
  rcases Memory.mem_set_fst hc with h1 | h1
  · omega
  · exact h c h1

/-- The indices of a payload. -/
@[simp] theorem Memory.bytesFrom_map_fst (i : Nat) (d : List Byte) :
    (Memory.bytesFrom i d).map Prod.fst = List.range' i d.length := by
  induction d generalizing i with
  | nil => rfl
  | cons v d ih => simp [Memory.bytesFrom, ih, List.range'_succ]

/-- A payload from index 0 lists 0 to its length - 1. -/
theorem Memory.bytesFrom_zero_map_fst (d : List Byte) :
    (Memory.bytesFrom 0 d).map Prod.fst = List.range d.length := by
  simp [List.range_eq_range']

/-- A payload is in canonical form. -/
theorem Memory.bytesFrom_wf (i : Nat) (d : List Byte) : Memory.wf (Memory.bytesFrom i d) = true := by
  induction d generalizing i with
  | nil => rfl
  | cons v d ih =>
    refine Memory.wf_cons.2 ⟨fun c hc => ?_, ih (i + 1)⟩
    have h : c.1 ∈ (Memory.bytesFrom (i + 1) d).map Prod.fst := List.mem_map_of_mem hc
    rw [Memory.bytesFrom_map_fst, List.mem_range'_1] at h
    exact h.1

/-- Byte `i + j` of a payload written from index `i`. -/
theorem Memory.get?_bytesFrom (i j : Nat) (d : List Byte) :
    Memory.get? (Memory.bytesFrom i d) (i + j) = d[j]? := by
  induction d generalizing i j with
  | nil => rfl
  | cons v d ih =>
    cases j with
    | zero => simp [Memory.bytesFrom, Memory.get?]
    | succ j =>
      have h := ih (i + 1) j
      rw [show i + 1 + j = i + (j + 1) by omega] at h
      simp [Memory.bytesFrom, Memory.get?, h]

end Sys2Proof.Machine
end

