-- ==== Sys2Proof/Laws/State.lean ====
section
/-! SUPPORT. What each update of the state does to each field, so that no later proof unfolds a record update. -/

namespace Sys2Proof.Machine

open Sys2Proof

/-! `raise` writes STATUS, OLEN and OBUF (60_exceptions R330). -/

@[simp] theorem raised_aesState (s : State) (c : Cause) : (s.raised c).aesState = s.aesState := rfl
@[simp] theorem raised_rk (s : State) (c : Cause) : (s.raised c).rk = s.rk := rfl
@[simp] theorem raised_res (s : State) (c : Cause) : (s.raised c).res = s.res := rfl
@[simp] theorem raised_ibuf (s : State) (c : Cause) : (s.raised c).ibuf = s.ibuf := rfl
@[simp] theorem raised_ilen (s : State) (c : Cause) : (s.raised c).ilen = s.ilen := rfl
@[simp] theorem raised_kbuf (s : State) (c : Cause) : (s.raised c).kbuf = s.kbuf := rfl
@[simp] theorem raised_klen (s : State) (c : Cause) : (s.raised c).klen = s.klen := rfl
@[simp] theorem raised_obuf (s : State) (c : Cause) : (s.raised c).obuf = [] := rfl
@[simp] theorem raised_olen (s : State) (c : Cause) : (s.raised c).olen = 0#32 := rfl
@[simp] theorem raised_status (s : State) (c : Cause) : (s.raised c).status = errorStatus c := rfl
@[simp] theorem raised_params (s : State) (c : Cause) : (s.raised c).params = s.params := rfl
@[simp] theorem raised_inbox (s : State) (c : Cause) : (s.raised c).inbox = s.inbox := rfl
@[simp] theorem raised_reply (s : State) (c : Cause) : (s.raised c).reply = s.reply := rfl
@[simp] theorem raised_bufGen (s : State) (c : Cause) : (s.raised c).bufGen = s.bufGen := rfl
@[simp] theorem raised_outGen (s : State) (c : Cause) : (s.raised c).outGen = s.outGen + 1 := rfl

/-! `ok` writes STATUS (00_scope R8). -/

@[simp] theorem completed_aesState (s : State) (w : Bool) : (s.completed w).aesState = s.aesState := rfl
@[simp] theorem completed_rk (s : State) (w : Bool) : (s.completed w).rk = s.rk := rfl
@[simp] theorem completed_res (s : State) (w : Bool) : (s.completed w).res = s.res := rfl
@[simp] theorem completed_ibuf (s : State) (w : Bool) : (s.completed w).ibuf = s.ibuf := rfl
@[simp] theorem completed_ilen (s : State) (w : Bool) : (s.completed w).ilen = s.ilen := rfl
@[simp] theorem completed_kbuf (s : State) (w : Bool) : (s.completed w).kbuf = s.kbuf := rfl
@[simp] theorem completed_klen (s : State) (w : Bool) : (s.completed w).klen = s.klen := rfl
@[simp] theorem completed_obuf (s : State) (w : Bool) : (s.completed w).obuf = s.obuf := rfl
@[simp] theorem completed_olen (s : State) (w : Bool) : (s.completed w).olen = s.olen := rfl
@[simp] theorem completed_status (s : State) (w : Bool) : (s.completed w).status = okStatus w := rfl
@[simp] theorem completed_params (s : State) (w : Bool) : (s.completed w).params = s.params := rfl
@[simp] theorem completed_inbox (s : State) (w : Bool) : (s.completed w).inbox = s.inbox := rfl
@[simp] theorem completed_reply (s : State) (w : Bool) : (s.completed w).reply = s.reply := rfl
@[simp] theorem completed_bufGen (s : State) (w : Bool) : (s.completed w).bufGen = s.bufGen := rfl
@[simp] theorem completed_outGen (s : State) (w : Bool) : (s.completed w).outGen = s.outGen := rfl

/-! `deliver` writes OBUF and OLEN (00_scope R8). -/

@[simp] theorem deliver_aesState (s : State) (d : List Byte) : (deliver d s).aesState = s.aesState := rfl
@[simp] theorem deliver_rk (s : State) (d : List Byte) : (deliver d s).rk = s.rk := rfl
@[simp] theorem deliver_res (s : State) (d : List Byte) : (deliver d s).res = s.res := rfl
@[simp] theorem deliver_ibuf (s : State) (d : List Byte) : (deliver d s).ibuf = s.ibuf := rfl
@[simp] theorem deliver_ilen (s : State) (d : List Byte) : (deliver d s).ilen = s.ilen := rfl
@[simp] theorem deliver_kbuf (s : State) (d : List Byte) : (deliver d s).kbuf = s.kbuf := rfl
@[simp] theorem deliver_klen (s : State) (d : List Byte) : (deliver d s).klen = s.klen := rfl
@[simp] theorem deliver_obuf (s : State) (d : List Byte) : (deliver d s).obuf = Memory.bytesFrom 0 d := rfl
@[simp] theorem deliver_olen (s : State) (d : List Byte) : (deliver d s).olen = BitVec.ofNat 32 d.length := rfl
@[simp] theorem deliver_status (s : State) (d : List Byte) : (deliver d s).status = s.status := rfl
@[simp] theorem deliver_params (s : State) (d : List Byte) : (deliver d s).params = s.params := rfl
@[simp] theorem deliver_inbox (s : State) (d : List Byte) : (deliver d s).inbox = s.inbox := rfl
@[simp] theorem deliver_reply (s : State) (d : List Byte) : (deliver d s).reply = s.reply := rfl
@[simp] theorem deliver_bufGen (s : State) (d : List Byte) : (deliver d s).bufGen = s.bufGen := rfl
@[simp] theorem deliver_outGen (s : State) (d : List Byte) : (deliver d s).outGen = s.outGen + 1 := rfl

/-! `endsession` clears RKV and STV (44_mode_sequencer R219). -/

@[simp] theorem endSession_aesState (s : State) : (endSession s).aesState = none := rfl
@[simp] theorem endSession_rk (s : State) : (endSession s).rk = none := rfl
@[simp] theorem endSession_res (s : State) : (endSession s).res = s.res := rfl
@[simp] theorem endSession_ibuf (s : State) : (endSession s).ibuf = s.ibuf := rfl
@[simp] theorem endSession_ilen (s : State) : (endSession s).ilen = s.ilen := rfl
@[simp] theorem endSession_kbuf (s : State) : (endSession s).kbuf = s.kbuf := rfl
@[simp] theorem endSession_klen (s : State) : (endSession s).klen = s.klen := rfl
@[simp] theorem endSession_obuf (s : State) : (endSession s).obuf = s.obuf := rfl
@[simp] theorem endSession_olen (s : State) : (endSession s).olen = s.olen := rfl
@[simp] theorem endSession_status (s : State) : (endSession s).status = s.status := rfl
@[simp] theorem endSession_params (s : State) : (endSession s).params = s.params := rfl
@[simp] theorem endSession_inbox (s : State) : (endSession s).inbox = s.inbox := rfl
@[simp] theorem endSession_reply (s : State) : (endSession s).reply = s.reply := rfl
@[simp] theorem endSession_bufGen (s : State) : (endSession s).bufGen = s.bufGen := rfl
@[simp] theorem endSession_outGen (s : State) : (endSession s).outGen = s.outGen := rfl

/-! ENCB and DECB clear STV (43_aes_block_engine R192). -/

@[simp] theorem dropState_aesState (s : State) : (dropState s).aesState = none := rfl
@[simp] theorem dropState_rk (s : State) : (dropState s).rk = s.rk := rfl
@[simp] theorem dropState_res (s : State) : (dropState s).res = s.res := rfl
@[simp] theorem dropState_ibuf (s : State) : (dropState s).ibuf = s.ibuf := rfl
@[simp] theorem dropState_ilen (s : State) : (dropState s).ilen = s.ilen := rfl
@[simp] theorem dropState_kbuf (s : State) : (dropState s).kbuf = s.kbuf := rfl
@[simp] theorem dropState_klen (s : State) : (dropState s).klen = s.klen := rfl
@[simp] theorem dropState_obuf (s : State) : (dropState s).obuf = s.obuf := rfl
@[simp] theorem dropState_olen (s : State) : (dropState s).olen = s.olen := rfl
@[simp] theorem dropState_status (s : State) : (dropState s).status = s.status := rfl
@[simp] theorem dropState_params (s : State) : (dropState s).params = s.params := rfl
@[simp] theorem dropState_inbox (s : State) : (dropState s).inbox = s.inbox := rfl
@[simp] theorem dropState_reply (s : State) : (dropState s).reply = s.reply := rfl
@[simp] theorem dropState_bufGen (s : State) : (dropState s).bufGen = s.bufGen := rfl
@[simp] theorem dropState_outGen (s : State) : (dropState s).outGen = s.outGen := rfl

/-! The reset event (70_reset R360, 10_state R43). -/

@[simp] theorem hostReset_aesState (s : State) : (hostReset s).aesState = none := rfl
@[simp] theorem hostReset_rk (s : State) : (hostReset s).rk = none := rfl
@[simp] theorem hostReset_res (s : State) : (hostReset s).res = 0#8 := rfl
@[simp] theorem hostReset_ibuf (s : State) : (hostReset s).ibuf = [] := rfl
@[simp] theorem hostReset_ilen (s : State) : (hostReset s).ilen = 0#32 := rfl
@[simp] theorem hostReset_kbuf (s : State) : (hostReset s).kbuf = [] := rfl
@[simp] theorem hostReset_klen (s : State) : (hostReset s).klen = 0#32 := rfl
@[simp] theorem hostReset_obuf (s : State) : (hostReset s).obuf = [] := rfl
@[simp] theorem hostReset_olen (s : State) : (hostReset s).olen = 0#32 := rfl
@[simp] theorem hostReset_status (s : State) : (hostReset s).status = 0#32 := rfl
@[simp] theorem hostReset_params (s : State) : (hostReset s).params = s.params := rfl
@[simp] theorem hostReset_inbox (s : State) : (hostReset s).inbox = s.inbox := rfl
@[simp] theorem hostReset_reply (s : State) : (hostReset s).reply = s.reply := rfl
@[simp] theorem hostReset_bufGen (s : State) : (hostReset s).bufGen = s.bufGen + 1 := rfl
@[simp] theorem hostReset_outGen (s : State) : (hostReset s).outGen = s.outGen + 1 := rfl

/-! The host's writes (20_memory R63). -/

@[simp] theorem hostSetBuf_aesState (s : State) (sp : HostSpace) (i : Nat) (v : Byte) :
    (hostSetBuf s sp i v).aesState = s.aesState := by
  cases sp <;> simp only [hostSetBuf] <;> split <;> rfl
@[simp] theorem hostSetBuf_rk (s : State) (sp : HostSpace) (i : Nat) (v : Byte) :
    (hostSetBuf s sp i v).rk = s.rk := by
  cases sp <;> simp only [hostSetBuf] <;> split <;> rfl
@[simp] theorem hostSetBuf_res (s : State) (sp : HostSpace) (i : Nat) (v : Byte) :
    (hostSetBuf s sp i v).res = s.res := by
  cases sp <;> simp only [hostSetBuf] <;> split <;> rfl
@[simp] theorem hostSetBuf_ibuf (s : State) (sp : HostSpace) (i : Nat) (v : Byte) :
    (hostSetBuf s sp i v).ibuf = if sp = .ibuf ∧ i < s.params.ibufCap then s.ibuf.set i v else s.ibuf := by
  cases sp <;> simp [hostSetBuf] <;> split <;> rfl
@[simp] theorem hostSetBuf_ilen (s : State) (sp : HostSpace) (i : Nat) (v : Byte) :
    (hostSetBuf s sp i v).ilen = s.ilen := by
  cases sp <;> simp only [hostSetBuf] <;> split <;> rfl
@[simp] theorem hostSetBuf_kbuf (s : State) (sp : HostSpace) (i : Nat) (v : Byte) :
    (hostSetBuf s sp i v).kbuf = if sp = .kbuf ∧ i < s.params.kbufCap then s.kbuf.set i v else s.kbuf := by
  cases sp <;> simp [hostSetBuf] <;> split <;> rfl
@[simp] theorem hostSetBuf_klen (s : State) (sp : HostSpace) (i : Nat) (v : Byte) :
    (hostSetBuf s sp i v).klen = s.klen := by
  cases sp <;> simp only [hostSetBuf] <;> split <;> rfl
@[simp] theorem hostSetBuf_obuf (s : State) (sp : HostSpace) (i : Nat) (v : Byte) :
    (hostSetBuf s sp i v).obuf = s.obuf := by
  cases sp <;> simp only [hostSetBuf] <;> split <;> rfl
@[simp] theorem hostSetBuf_olen (s : State) (sp : HostSpace) (i : Nat) (v : Byte) :
    (hostSetBuf s sp i v).olen = s.olen := by
  cases sp <;> simp only [hostSetBuf] <;> split <;> rfl
@[simp] theorem hostSetBuf_status (s : State) (sp : HostSpace) (i : Nat) (v : Byte) :
    (hostSetBuf s sp i v).status = s.status := by
  cases sp <;> simp only [hostSetBuf] <;> split <;> rfl
@[simp] theorem hostSetBuf_params (s : State) (sp : HostSpace) (i : Nat) (v : Byte) :
    (hostSetBuf s sp i v).params = s.params := by
  cases sp <;> simp only [hostSetBuf] <;> split <;> rfl
@[simp] theorem hostSetBuf_inbox (s : State) (sp : HostSpace) (i : Nat) (v : Byte) :
    (hostSetBuf s sp i v).inbox = s.inbox := by
  cases sp <;> simp only [hostSetBuf] <;> split <;> rfl
@[simp] theorem hostSetBuf_reply (s : State) (sp : HostSpace) (i : Nat) (v : Byte) :
    (hostSetBuf s sp i v).reply = s.reply := by
  cases sp <;> simp only [hostSetBuf] <;> split <;> rfl
@[simp] theorem hostSetBuf_bufGen (s : State) (sp : HostSpace) (i : Nat) (v : Byte) :
    (hostSetBuf s sp i v).bufGen = s.bufGen := by
  cases sp <;> simp only [hostSetBuf] <;> split <;> rfl
@[simp] theorem hostSetBuf_outGen (s : State) (sp : HostSpace) (i : Nat) (v : Byte) :
    (hostSetBuf s sp i v).outGen = s.outGen := by
  cases sp <;> simp only [hostSetBuf] <;> split <;> rfl
@[simp] theorem hostSetReg_aesState (s : State) (n : Nat) (v : Word32) : (hostSetReg s n v).aesState = s.aesState := by
  unfold hostSetReg; split <;> rfl
@[simp] theorem hostSetReg_rk (s : State) (n : Nat) (v : Word32) : (hostSetReg s n v).rk = s.rk := by
  unfold hostSetReg; split <;> rfl
@[simp] theorem hostSetReg_res (s : State) (n : Nat) (v : Word32) : (hostSetReg s n v).res = s.res := by
  unfold hostSetReg; split <;> rfl
@[simp] theorem hostSetReg_ibuf (s : State) (n : Nat) (v : Word32) : (hostSetReg s n v).ibuf = s.ibuf := by
  unfold hostSetReg; split <;> rfl
@[simp] theorem hostSetReg_ilen (s : State) (n : Nat) (v : Word32) : (hostSetReg s n v).ilen = if n = 2 then v else s.ilen := by
  unfold hostSetReg; split <;> simp_all
@[simp] theorem hostSetReg_kbuf (s : State) (n : Nat) (v : Word32) : (hostSetReg s n v).kbuf = s.kbuf := by
  unfold hostSetReg; split <;> rfl
@[simp] theorem hostSetReg_klen (s : State) (n : Nat) (v : Word32) : (hostSetReg s n v).klen = if n = 3 then v else s.klen := by
  unfold hostSetReg; split <;> simp_all
@[simp] theorem hostSetReg_obuf (s : State) (n : Nat) (v : Word32) : (hostSetReg s n v).obuf = s.obuf := by
  unfold hostSetReg; split <;> rfl
@[simp] theorem hostSetReg_olen (s : State) (n : Nat) (v : Word32) : (hostSetReg s n v).olen = s.olen := by
  unfold hostSetReg; split <;> rfl
@[simp] theorem hostSetReg_status (s : State) (n : Nat) (v : Word32) : (hostSetReg s n v).status = s.status := by
  unfold hostSetReg; split <;> rfl
@[simp] theorem hostSetReg_params (s : State) (n : Nat) (v : Word32) : (hostSetReg s n v).params = s.params := by
  unfold hostSetReg; split <;> rfl
@[simp] theorem hostSetReg_inbox (s : State) (n : Nat) (v : Word32) : (hostSetReg s n v).inbox = s.inbox := by
  unfold hostSetReg; split <;> rfl
@[simp] theorem hostSetReg_reply (s : State) (n : Nat) (v : Word32) : (hostSetReg s n v).reply = s.reply := by
  unfold hostSetReg; split <;> rfl
@[simp] theorem hostSetReg_bufGen (s : State) (n : Nat) (v : Word32) : (hostSetReg s n v).bufGen = s.bufGen := by
  unfold hostSetReg; split <;> rfl
@[simp] theorem hostSetReg_outGen (s : State) (n : Nat) (v : Word32) : (hostSetReg s n v).outGen = s.outGen := by
  unfold hostSetReg; split <;> rfl

end Sys2Proof.Machine
end

