-- ==== Sys2Proof/Laws/Ops.lean ====
section
/-! SUPPORT. One lemma for each shared operation that says everything it can do: if it answers a next state, then one of
the cases below holds. A proof about a command cites these and does not unfold the operation. -/

namespace Sys2Proof.Machine

open Sys2Proof

variable {s t : State} {k : Out} {c : Cause}

@[simp] theorem raise_eq_next : raise c s = .next t ↔ t = s.raised c := by
  simp [raise, eq_comm]

@[simp] theorem okWarn_eq_next {w : Bool} : okWarn w s = .next t ↔ t = s.completed w := by
  simp [okWarn, eq_comm]

@[simp] theorem ok_eq_next : ok s = .next t ↔ t = s.completed false := okWarn_eq_next

/-! The flags after an error and after `ok(w)` (10_state R34). -/

@[simp] theorem raised_okFlag (s : State) (c : Cause) : (s.raised c).okFlag = false := by
  simp only [State.okFlag, raised_status]; cases c <;> decide
@[simp] theorem raised_warn (s : State) (c : Cause) : (s.raised c).warn = false := by
  simp only [State.warn, raised_status]; cases c <;> decide
@[simp] theorem raised_err (s : State) (c : Cause) : (s.raised c).err = c.kind.code := by
  simp only [State.err, raised_status]; cases c <;> decide
@[simp] theorem completed_okFlag (s : State) (w : Bool) : (s.completed w).okFlag = true := by
  simp only [State.okFlag, completed_status]; cases w <;> decide
@[simp] theorem completed_warn (s : State) (w : Bool) : (s.completed w).warn = w := by
  simp only [State.warn, completed_status]; cases w <;> decide
@[simp] theorem completed_err (s : State) (w : Bool) : (s.completed w).err = 0 := by
  simp only [State.err, completed_status]; cases w <;> decide

/-- Two causes have two STATUS words (60_exceptions R321). -/
@[simp] theorem errorStatus_inj {c c' : Cause} : errorStatus c = errorStatus c' ↔ c = c' := by
  cases c <;> cases c' <;> decide

/-- No success has an error's STATUS word. -/
@[simp] theorem okStatus_ne_errorStatus (w : Bool) (c : Cause) : okStatus w ≠ errorStatus c := by
  cases w <;> cases c <;> decide

/-- A check that passes is its continuation. -/
@[simp] theorem check_pass {bad : Prop} [Decidable bad] (h : ¬ bad) : check bad c s k = k := if_neg h

/-- A check that fails raises its cause. -/
@[simp] theorem check_fail {bad : Prop} [Decidable bad] (h : bad) : check bad c s k = raise c s := if_pos h

/-- All that a check can do (60_exceptions R326). -/
theorem check_cases {bad : Prop} [Decidable bad] (h : check bad c s k = .next t) :
    (bad ∧ t = s.raised c) ∨ (¬ bad ∧ k = .next t) := by
  by_cases hb : bad
  · exact .inl ⟨hb, by simpa [hb] using h⟩
  · exact .inr ⟨hb, by simpa [hb] using h⟩

/-- All that `precheck` can do (44_mode_sequencer R235). -/
theorem precheck_cases {need : Nat} (h : precheck need s k = .next t) :
    (s.ilenOutOfRange ∧ t = s.raised .lenRegRange) ∨
    (¬ s.ilenOutOfRange ∧ s.needTooLarge need ∧ t = s.raised .capacity) ∨
    (¬ s.ilenOutOfRange ∧ ¬ s.needTooLarge need ∧ k = .next t) := by
  rcases check_cases h with ⟨h1, rfl⟩ | ⟨h1, h⟩
  · exact .inl ⟨h1, rfl⟩
  · rcases check_cases h with ⟨h2, rfl⟩ | ⟨h2, h⟩
    · exact .inr (.inl ⟨h1, h2, rfl⟩)
    · exact .inr (.inr ⟨h1, h2, h⟩)

/-- All that the shared checks of the keystream commands can do (46_legacy_keystream R291). -/
theorem keystreamChecks_cases {need : Nat} (h : keystreamChecks need s k = .next t) :
    ((s.ilenOutOfRange ∨ s.klenOutOfRange) ∧ t = s.raised .lenRegRange) ∨
    (¬ (s.ilenOutOfRange ∨ s.klenOutOfRange) ∧ s.needTooLarge need ∧ t = s.raised .capacity) ∨
    (¬ (s.ilenOutOfRange ∨ s.klenOutOfRange) ∧ ¬ s.needTooLarge need ∧ s.kn = 0 ∧ t = s.raised .emptyKey) ∨
    (¬ (s.ilenOutOfRange ∨ s.klenOutOfRange) ∧ ¬ s.needTooLarge need ∧ s.kn ≠ 0 ∧ k = .next t) := by
  rcases check_cases h with ⟨h1, rfl⟩ | ⟨h1, h⟩
  · exact .inl ⟨h1, rfl⟩
  · rcases check_cases h with ⟨h2, rfl⟩ | ⟨h2, h⟩
    · exact .inr (.inl ⟨h1, h2, rfl⟩)
    · rcases check_cases h with ⟨h3, rfl⟩ | ⟨h3, h⟩
      · exact .inr (.inr (.inl ⟨h1, h2, h3, rfl⟩))
      · exact .inr (.inr (.inr ⟨h1, h2, h3, h⟩))

/-- All that the shared checks of the payload commands can do (44_mode_sequencer R227 to R230). -/
theorem payloadChecks_cases {need : Nat} {ks : BitVec 2} {f : KeySize → Out}
    (h : payloadChecks need ks s f = .next t) :
    ((s.ilenOutOfRange ∨ s.klenOutOfRange) ∧ t = s.raised .lenRegRange) ∨
    (¬ (s.ilenOutOfRange ∨ s.klenOutOfRange) ∧ s.needTooLarge need ∧ t = s.raised .capacity) ∨
    (¬ (s.ilenOutOfRange ∨ s.klenOutOfRange) ∧ ¬ s.needTooLarge need ∧ keySizeOf ks = none ∧
      t = s.raised .keySizeSelect) ∨
    (∃ size, ¬ (s.ilenOutOfRange ∨ s.klenOutOfRange) ∧ ¬ s.needTooLarge need ∧ keySizeOf ks = some size ∧
      ((s.kn = 0 ∧ t = s.raised .emptyKey) ∨ (s.kn ≠ 0 ∧ f size = .next t))) := by
  rcases check_cases h with ⟨h1, rfl⟩ | ⟨h1, h⟩
  · exact .inl ⟨h1, rfl⟩
  · rcases check_cases h with ⟨h2, rfl⟩ | ⟨h2, h⟩
    · exact .inr (.inl ⟨h1, h2, rfl⟩)
    · cases hk : keySizeOf ks with
      | none =>
        rw [hk] at h
        exact .inr (.inr (.inl ⟨h1, h2, rfl, raise_eq_next.1 h⟩))
      | some size =>
        rw [hk] at h
        exact .inr (.inr (.inr ⟨size, h1, h2, rfl, check_cases h⟩))

/-- All that a transform command can do (41_aes_core_transform R140). -/
theorem transform_cases {f : Matrix → Matrix} (h : transform f s = .next t) :
    (s.aesState = none ∧ t = s.raised .stateInvalid) ∨
    (∃ S, s.aesState = some S ∧ t = State.completed { s with aesState := some (f S) } false) := by
  unfold transform at h
  cases hS : s.aesState with
  | none => simp_all
  | some S => simp_all

/-- All that ENCB and DECB can do (43_aes_block_engine R192). -/
theorem blockCommand_cases {f : List Byte → List KeyWord → Nat → List Byte} (h : blockCommand f s = .next t) :
    (s.ilenOutOfRange ∧ t = s.raised .lenRegRange) ∨
    (¬ s.ilenOutOfRange ∧ s.rk = none ∧ t = s.raised .roundKeysInvalid) ∨
    (∃ sch, ¬ s.ilenOutOfRange ∧ s.rk = some sch ∧
      ((s.n ≠ 16 ∧ t = s.raised .length) ∨
       (s.n = 16 ∧ t = (dropState (deliver (f s.input sch.words sch.size.rounds) s)).completed false))) := by
  rcases check_cases h with ⟨h1, rfl⟩ | ⟨h1, h⟩
  · exact .inl ⟨h1, rfl⟩
  · cases hr : s.rk with
    | none =>
      rw [hr] at h
      exact .inr (.inl ⟨h1, rfl, raise_eq_next.1 h⟩)
    | some sch =>
      rw [hr] at h
      refine .inr (.inr ⟨sch, h1, rfl, ?_⟩)
      rcases check_cases h with ⟨h2, rfl⟩ | ⟨h2, h⟩
      · exact .inl ⟨h2, rfl⟩
      · exact .inr ⟨not_not.1 h2, ok_eq_next.1 h⟩

/-- All that CAESE and CAESD can do (45_legacy_caesar_vigenere R262). -/
theorem caesarCommand_cases {shift : Byte} {z : Int} (h : caesarCommand shift z s = .next t) :
    (s.ilenOutOfRange ∧ t = s.raised .lenRegRange) ∨
    (¬ s.ilenOutOfRange ∧ s.needTooLarge s.n ∧ t = s.raised .capacity) ∨
    (¬ s.ilenOutOfRange ∧ ¬ s.needTooLarge s.n ∧ shiftOutOfRange shift ∧ t = s.raised .shiftRange) ∨
    (¬ s.ilenOutOfRange ∧ ¬ s.needTooLarge s.n ∧ ¬ shiftOutOfRange shift ∧
      t = (deliver (caesar s.input z) s).completed false) := by
  rcases check_cases h with ⟨h1, rfl⟩ | ⟨h1, h⟩
  · exact .inl ⟨h1, rfl⟩
  · rcases check_cases h with ⟨h2, rfl⟩ | ⟨h2, h⟩
    · exact .inr (.inl ⟨h1, h2, rfl⟩)
    · rcases check_cases h with ⟨h3, rfl⟩ | ⟨h3, h⟩
      · exact .inr (.inr (.inl ⟨h1, h2, h3, rfl⟩))
      · exact .inr (.inr (.inr ⟨h1, h2, h3, ok_eq_next.1 h⟩))

/-- All that the Vigenere commands can do (45_legacy_caesar_vigenere R267). -/
theorem vigenereCommand_cases {f : List Byte → List Byte → List Byte} (h : vigenereCommand f s = .next t) :
    ((s.ilenOutOfRange ∨ s.klenOutOfRange) ∧ t = s.raised .lenRegRange) ∨
    (¬ (s.ilenOutOfRange ∨ s.klenOutOfRange) ∧ s.needTooLarge s.n ∧ t = s.raised .capacity) ∨
    (¬ (s.ilenOutOfRange ∨ s.klenOutOfRange) ∧ ¬ s.needTooLarge s.n ∧ (cleanKey s.key).length = 0 ∧
      t = s.raised .emptyVigenereKey) ∨
    (¬ (s.ilenOutOfRange ∨ s.klenOutOfRange) ∧ ¬ s.needTooLarge s.n ∧ (cleanKey s.key).length ≠ 0 ∧
      t = (deliver (f s.input (cleanKey s.key)) s).completed false) := by
  rcases check_cases h with ⟨h1, rfl⟩ | ⟨h1, h⟩
  · exact .inl ⟨h1, rfl⟩
  · rcases check_cases h with ⟨h2, rfl⟩ | ⟨h2, h⟩
    · exact .inr (.inl ⟨h1, h2, rfl⟩)
    · rcases check_cases h with ⟨h3, rfl⟩ | ⟨h3, h⟩
      · exact .inr (.inr (.inl ⟨h1, h2, h3, rfl⟩))
      · exact .inr (.inr (.inr ⟨h1, h2, h3, ok_eq_next.1 h⟩))

/-- A payload of n bytes has n bytes. -/
@[simp] theorem memRead_length (f : Nat → Byte) (i n : Nat) : (memRead f i n).length = n := by
  simp [memRead]

/-- `in` has ILEN bytes (00_scope R8). -/
@[simp] theorem input_length (s : State) : s.input.length = s.n := memRead_length ..

/-- `key` has KLEN bytes (00_scope R8). -/
@[simp] theorem key_length (s : State) : s.key.length = s.kn := memRead_length ..

/-- Byte j of `in` is byte j of IBUF (00_scope R8). -/
theorem input_getElem? {s : State} {j : Nat} (h : j < s.n) : s.input[j]? = some (s.ibufByte j) := by
  simp [State.input, memRead, h]

/-- Byte j of `key` is byte j of KBUF (00_scope R8). -/
theorem key_getElem? {s : State} {j : Nat} (h : j < s.kn) : s.key[j]? = some (s.kbufByte j) := by
  simp [State.key, memRead, h]

/-- Byte j of a delivered payload is byte j of OBUF (10_state R31). -/
theorem obufByte_deliver {s : State} {d : List Byte} {j : Nat} {v : Byte} (h : d[j]? = some v) :
    (deliver d s).obufByte j = v := by
  have := Memory.get?_bytesFrom 0 j d
  simp only [Nat.zero_add] at this
  simp [State.obufByte, this, h]

end Sys2Proof.Machine
end

