-- ==== Sys2Proof/Laws/Follows.lean ====
section
/-! SUPPORT. How a command's checks and its end meet the terms of Safety.lean: one lemma for a check, one for each way a
command ends. A proof of a `Follows` statement is a chain of `checked_of_check`, closed by one of the others. -/

namespace Sys2Proof.Machine

open Sys2Proof

variable {s t : State} {k : Out} {c : Cause} {w : Bool} {d : List Byte}

/-- What `raise` writes is what an error report is (60_exceptions R330). -/
theorem failsWith_raised (s : State) (c : Cause) : FailsWith (errorStatus c) s (s.raised c) :=
  ⟨rfl, rfl, rfl, ⟨rfl, rfl⟩, ⟨rfl, rfl, fun _ => rfl, fun _ => rfl⟩, rfl, rfl, rfl⟩

/-- A first check that fails is reported and the rest of the list says nothing. -/
theorem checked_raise {bad : Prop} {rest : List (Prop × Word32)} {P : State → Prop} {v : Word32} (hb : bad)
    (hv : errorStatus c = v) : ∃ t, raise c s = .next t ∧ Checked s ((bad, v) :: rest) P t :=
  ⟨s.raised c, rfl, fun _ => hv ▸ failsWith_raised s c, fun h => absurd hb h⟩

/-- A first check that does not hold leaves the rest of the list. -/
theorem checked_skip {bad : Prop} {rest : List (Prop × Word32)} {P : State → Prop} {v : Word32} (hb : ¬ bad)
    (h : ∃ t, k = .next t ∧ Checked s rest P t) : ∃ t, k = .next t ∧ Checked s ((bad, v) :: rest) P t :=
  h.imp fun _ ht => ⟨ht.1, fun h => absurd h hb, fun _ => ht.2⟩

/-- A check of the model is a check of the list. -/
theorem checked_of_check {bad bad' : Prop} [Decidable bad] {rest : List (Prop × Word32)} {P : State → Prop}
    {v : Word32} (hb : bad ↔ bad') (hv : errorStatus c = v)
    (h : ¬ bad' → ∃ t, k = .next t ∧ Checked s rest P t) :
    ∃ t, check bad c s k = .next t ∧ Checked s ((bad', v) :: rest) P t := by
  by_cases hc : bad
  · rw [check_fail hc]
    exact checked_raise (hb.1 hc) hv
  · rw [check_pass hc]
    exact checked_skip (mt hb.2 hc) (h (mt hb.2 hc))

/-- What a delivery leaves to read (10_state R31). -/
theorem delivers_deliver (d : List Byte) (s : State) : Delivers d ((deliver d s).completed w) :=
  ⟨rfl, fun _ _ h => obufByte_deliver (s := s) h⟩

/-- A command that ends with a delivery and `ok(w)`. -/
theorem deliversOnly_completed (w : Bool) (d : List Byte) (s : State) :
    DeliversOnly w d s ((deliver d s).completed w) :=
  ⟨by cases w <;> rfl, delivers_deliver d s, rfl, ⟨rfl, rfl⟩, ⟨rfl, rfl, fun _ => rfl, fun _ => rfl⟩, rfl, rfl, rfl⟩

/-- A payload command that ends with a delivery and `ok(w)`, its session closed. -/
theorem deliversAndCloses_completed (w : Bool) (d : List Byte) (s : State) :
    DeliversAndCloses w d s ((deliver d (endSession s)).completed w) :=
  ⟨by cases w <;> rfl, delivers_deliver d (endSession s), rfl, rfl, rfl, ⟨rfl, rfl, fun _ => rfl, fun _ => rfl⟩, rfl,
    rfl, rfl⟩

/-- A transform command that ends well. -/
theorem changesStateOnly_completed (S : Option Matrix) (s : State) :
    ChangesStateOnly s (State.completed { s with aesState := S } false) :=
  ⟨rfl, rfl, rfl, ⟨rfl, fun _ => rfl⟩, ⟨rfl, rfl, fun _ => rfl, fun _ => rfl⟩, rfl, rfl, rfl⟩

/-- AESTD's late error (60_exceptions R332). -/
theorem failsLate_raised (s : State) : FailsLate s ((endSession s).raised .utf8Invalid) :=
  ⟨rfl, rfl, rfl, rfl, rfl, ⟨rfl, rfl, fun _ => rfl, fun _ => rfl⟩, rfl, rfl, rfl⟩

/-- An error's STATUS word is one of those that STATUS can hold (10_state R34). -/
theorem raised_status_legal (s : State) (c : Cause) : (s.raised c).status ∈ legalStatus := by
  rw [raised_status]
  cases c <;> decide

/-- So is a success's. -/
theorem completed_status_legal (s : State) (w : Bool) : (s.completed w).status ∈ legalStatus := by
  rw [completed_status]
  cases w <;> decide

/-- The output of a delivery is the whole payload when its length fits OLEN (10_state R31). -/
theorem output_of_delivers (h : Delivers d t) (hd : d.length < 2 ^ 32) : t.output = d := by
  have hn : t.olen.toNat = d.length := by rw [h.1, BitVec.toNat_ofNat, Nat.mod_eq_of_lt hd]
  apply List.ext_getElem?
  intro j
  by_cases hj : j < d.length
  · have := h.2 j d[j] (by simp [hj])
    simp [State.output, memRead, hn, hj, this]
  · simp [State.output, memRead, hn, hj]

end Sys2Proof.Machine
end

