-- ==== Sys2Proof/Laws/Lengths.lean ====
section
/-! SUPPORT. The length of what each function of the meanings gives, one lemma for each. -/

namespace Sys2Proof.Machine

open Sys2Proof

@[simp] theorem length_padBytes (d : List Byte) : (padBytes d).length = paddedLength d.length := by
  simp [padBytes, paddedLength]
  omega

theorem length_padFile (b : Bool) (d : List Byte) : (padFile b d).length = fileNeed b d.length := by
  unfold padFile fileNeed
  by_cases h : d.length % 16 = 0 <;> cases b <;> simp [h]

theorem length_unpadV_le (d : List Byte) : (unpadV d).1.length ≤ d.length := by
  unfold unpadV
  split
  · exact le_rfl
  · dsimp only
    split_ifs <;> simp

theorem length_unpadU_le (corner : UnpadCorner) (d : List Byte) : (unpadU corner d).length ≤ d.length := by
  unfold unpadU
  split
  · simp
  · dsimp only
    split_ifs
    · cases corner <;> simp
    · simp
    · simp

@[simp] theorem length_hexEnc (d : List Byte) : (hexEnc d).length = 2 * d.length := by
  simp [hexEnc]
  omega

/-- A decoded sequence is half as long as its text. -/
theorem length_hexDec {t d : List Byte} (h : hexDec t = some d) : t.length = 2 * d.length := by
  induction t using hexDec.induct generalizing d with
  | case1 =>
    simp only [hexDec, Option.some.injEq] at h
    simp [← h]
  | case2 => simp [hexDec] at h
  | case3 a b r hi lo out =>
    simp_all only [hexDec, Option.some.injEq, List.length_cons, forall_eq']
    simp only [← h, List.length_cons]
    omega
  | case4 a b r h1 ih =>
    unfold hexDec at h
    split at h
    · exact (h1 _ _ _ ‹_› ‹_› ‹_›).elim
    · simp at h

@[simp] theorem length_fromState (S : Matrix) : (fromState S).length = 16 := rfl

@[simp] theorem length_encryptBlock (b : List Byte) (W : List KeyWord) (N : Nat) : (encryptBlock b W N).length = 16 := rfl

@[simp] theorem length_decryptBlock (b : List Byte) (W : List KeyWord) (N : Nat) : (decryptBlock b W N).length = 16 := rfl

@[simp] theorem length_blocks (n : Nat) (d : List Byte) : (blocks n d).length = n := by
  induction n generalizing d with
  | zero => rfl
  | succ n ih => simp [blocks, ih]

theorem length_ecbEnc (d : List Byte) (W : List KeyWord) (N : Nat) : (ecbEnc d W N).length = 16 * (d.length / 16) := by
  simp [ecbEnc, mul_comm]

theorem length_ecbDec (d : List Byte) (W : List KeyWord) (N : Nat) : (ecbDec d W N).length = 16 * (d.length / 16) := by
  simp [ecbDec, mul_comm]

/-- A padded payload is whole blocks, so its encryption has its length. -/
@[simp] theorem length_ecbEnc_padBytes (d : List Byte) (W : List KeyWord) (N : Nat) :
    (ecbEnc (padBytes d) W N).length = paddedLength d.length := by
  rw [length_ecbEnc, length_padBytes, paddedLength]
  omega

theorem length_ecbEnc_padFile (b : Bool) (d : List Byte) (W : List KeyWord) (N : Nat) :
    (ecbEnc (padFile b d) W N).length = fileNeed b d.length := by
  rw [length_ecbEnc, length_padFile, fileNeed]
  split_ifs
  · omega
  · rw [paddedLength]
    omega

theorem length_ecbDec_le (d : List Byte) (W : List KeyWord) (N : Nat) : (ecbDec d W N).length ≤ d.length := by
  rw [length_ecbDec]
  omega

theorem length_deriveKey (H : List Byte → Digest) (pass : List Byte) (size : KeySize) :
    (deriveKey H pass size.bytes).length = size.bytes := by
  cases size <;> simp [deriveKey, KeySize.bytes]

theorem length_keyWords : ∀ k : List Byte, (keyWords k).length = k.length / 4
  | [] => by simp [keyWords]
  | [_] => by simp [keyWords]
  | [_, _] => by simp [keyWords]
  | [_, _, _] => by simp [keyWords]
  | _ :: _ :: _ :: _ :: rest => by
    simp only [keyWords, List.length_cons, length_keyWords rest]
    omega

/-- The words that a key's expansion adds (42_aes_key_schedule R170). -/
theorem length_expand (nk n : Nat) (W : List KeyWord) :
    ((fun W => W ++ [nextWord nk W])^[n] W).length = W.length + n := by
  induction n generalizing W with
  | zero => rfl
  | succ n ih =>
    rw [Function.iterate_succ_apply, ih]
    simp
    omega

/-- A key of the size's length has a schedule of 4(N + 1) words (10_state R24). -/
theorem length_expandKey {size : KeySize} {k : List Byte} (h : k.length = size.bytes) :
    (expandKey size k).length = 4 * (size.rounds + 1) := by
  rw [expandKey, length_expand, length_keyWords, h]
  cases size <;> rfl

@[simp] theorem length_caesar (d : List Byte) (k : Int) : (caesar d k).length = d.length := by simp [caesar]

theorem length_cleanKey_le (k : List Byte) : (cleanKey k).length ≤ k.length := List.length_filterMap_le ..

theorem length_vigTextFrom (ck : List Byte) (sign : Int) (j : Nat) (d : List Byte) :
    (vigTextFrom ck sign j d).length = d.length := by
  induction d generalizing j with
  | nil => rfl
  | cons v d ih =>
    unfold vigTextFrom
    split_ifs <;> simp [ih]

@[simp] theorem length_vigText (d ck : List Byte) (sign : Int) : (vigText d ck sign).length = d.length :=
  length_vigTextFrom ..

theorem length_vigBinFrom (ck : List Byte) (sign : Int) (i : Nat) (d : List Byte) :
    (vigBinFrom ck sign i d).length = d.length := by
  induction d generalizing i with
  | nil => rfl
  | cons v d ih => simp [vigBinFrom, ih]

@[simp] theorem length_vigBin (d ck : List Byte) (sign : Int) : (vigBin d ck sign).length = d.length :=
  length_vigBinFrom ..

@[simp] theorem length_keystream (H : List Byte → Digest) (start : Nat) (seed : List Byte) (n : Nat) :
    (keystream H start seed n).length = n := by
  simp [keystream]
  omega

@[simp] theorem length_ksXor (H : List Byte → Digest) (start : Nat) (d seed : List Byte) :
    (ksXor H start d seed).length = d.length := by
  simp [ksXor]

end Sys2Proof.Machine
end

