-- ==== Sys2Proof/Laws/Exec.lean ====
section
/-! SUPPORT. All that a command can do, said once: `Ends i s t` lists the ways command i can end in t from s, and
`exec_ends` says that there is no other. A proof about every command is a case analysis of `Ends`. -/

namespace Sys2Proof.Machine

open Sys2Proof

/-- d is a delivery that the need of command i allows (20_memory R72). -/
def Fits (i : Instr) (s : State) (d : List Byte) : Prop :=
  (∃ need, needOf s.params s.n i = some need ∧ d.length ≤ need ∧ need ≤ s.params.obufCap) ∨
  (∃ need, smallNeedOf s.kn i = some need ∧ needOf s.params s.n i = none ∧ d.length ≤ need ∧
    (i = .vkcln → s.kn ≤ s.params.kbufCap))

/-- The ways command i can end from s. -/
inductive Ends (i : Instr) (s : State) : State → Prop
  | raised (c : Cause) (hc : c ∈ causesOf i) (hl : ∀ ks, i = .aestd ks → c ≠ .utf8Invalid) : Ends i s (s.raised c)
  | late (ks : BitVec 2) (hi : i = .aestd ks) : Ends i s ((endSession s).raised .utf8Invalid)
  | wroteRes (v : Byte) (hi : (∃ a b, i = .gfmul a b) ∨ i = .sniff) :
      Ends i s (State.completed { s with res := v } false)
  | wroteState (S : Matrix)
      (hi : i ∈ [.ldst, .subb, .isubb, .shrow, .ishrow, .mixc, .imixc] ∨ ∃ rd, i = .ark rd) :
      Ends i s (State.completed { s with aesState := some S } false)
  | wroteSchedule (sch : Schedule) (ks : BitVec 2) (hi : i = .kexp ks) (hk : keySizeOf ks = some sch.size)
      (hl : sch.words.length = 4 * (sch.size.rounds + 1)) : Ends i s (State.completed { s with rk := some sch } false)
  | closed (hi : i = .kclr) : Ends i s ((endSession s).completed false)
  | passed (hi : i = .u8chk) : Ends i s (s.completed false)
  | delivered (w : Bool) (d : List Byte) (hi : mayChangeState i = false) (hs : mayChangeSchedule i = false)
      (hn : noOutput i = false) (hw : w = true → i = .unpadv) (hf : Fits i s d) :
      Ends i s ((deliver d s).completed w)
  | block (d : List Byte) (hi : i = .encb ∨ i = .decb) (hf : Fits i s d) :
      Ends i s ((dropState (deliver d s)).completed false)
  | payload (w : Bool) (d : List Byte) (ks : BitVec 2)
      (hi : i = .aeste ks ∨ i = .aestd ks ∨ i = .aesfe ks ∨ i = .aesfd ks) (hw : w = true → i = .aesfd ks)
      (hf : Fits i s d) : Ends i s ((deliver d (endSession s)).completed w)

variable {s : State} {i : Instr}

/-- An error of the command's own row, AESTD's late one apart. -/
theorem ends_raise (c : Cause) (hc : c ∈ causesOf i) (hl : ∀ ks, i = .aestd ks → c ≠ .utf8Invalid) :
    ∃ t, raise c s = .next t ∧ Ends i s t :=
  ⟨_, rfl, .raised c hc hl⟩

/-- A check of the command's own row. -/
theorem ends_check {bad : Prop} [Decidable bad] {k : Out} (c : Cause) (hc : c ∈ causesOf i)
    (hl : ∀ ks, i = .aestd ks → c ≠ .utf8Invalid) (h : ¬ bad → ∃ t, k = .next t ∧ Ends i s t) :
    ∃ t, check bad c s k = .next t ∧ Ends i s t := by
  by_cases hb : bad
  · rw [check_fail hb]
    exact ends_raise c hc hl
  · rw [check_pass hb]
    exact h hb

/-- A delivery within the need of 20_memory R72. -/
theorem fits_need {d : List Byte} (need : Nat) (h : needOf s.params s.n i = some need) (hd : d.length ≤ need)
    (hc : ¬ s.needTooLarge need) : Fits i s d :=
  .inl ⟨need, h, hd, not_lt.1 hc⟩

theorem transform_ends (f : Matrix → Matrix) (hc : .stateInvalid ∈ causesOf i) (hl : ∀ ks, i ≠ .aestd ks)
    (hi : i ∈ [.ldst, .subb, .isubb, .shrow, .ishrow, .mixc, .imixc] ∨ ∃ rd, i = .ark rd) :
    ∃ t, transform f s = .next t ∧ Ends i s t := by
  unfold transform
  split
  · exact ends_raise _ hc fun ks h => absurd h (hl ks)
  · exact ⟨_, rfl, .wroteState _ hi⟩

theorem block_ends (f : List Byte → List KeyWord → Nat → List Byte) (hf : ∀ b W N, (f b W N).length = 16)
    (hi : i = .encb ∨ i = .decb) : ∃ t, blockCommand f s = .next t ∧ Ends i s t := by
  have hl : ∀ ks, i ≠ .aestd ks := by rcases hi with rfl | rfl <;> simp
  have hn : smallNeedOf s.kn i = some 16 ∧ needOf s.params s.n i = none ∧ i ≠ .vkcln := by
    rcases hi with rfl | rfl <;> simp [smallNeedOf, needOf]
  have hc : causesOf i = [.lenRegRange, .roundKeysInvalid, .length] := by rcases hi with rfl | rfl <;> rfl
  unfold blockCommand
  refine ends_check _ (by simp [hc]) (fun ks h => absurd h (hl ks)) fun _ => ?_
  split
  · exact ends_raise _ (by simp [hc]) fun ks h => absurd h (hl ks)
  · refine ends_check _ (by simp [hc]) (fun ks h => absurd h (hl ks)) fun _ => ⟨_, rfl, .block _ hi ?_⟩
    exact .inr ⟨16, hn.1, hn.2.1, (hf ..).le, fun h => absurd h hn.2.2⟩

theorem payloadChecks_ends {need : Nat} {ks : BitVec 2} {f : KeySize → Out}
    (hc : ∀ c ∈ [Cause.lenRegRange, .capacity, .keySizeSelect, .emptyKey], c ∈ causesOf i)
    (h : ∀ size, ¬ s.needTooLarge need → ∃ t, f size = .next t ∧ Ends i s t) :
    ∃ t, payloadChecks need ks s f = .next t ∧ Ends i s t := by
  unfold payloadChecks
  refine ends_check _ (hc _ (by simp)) (by simp) fun _ => ends_check _ (hc _ (by simp)) (by simp) fun h2 => ?_
  split
  · exact ends_raise _ (hc _ (by simp)) (by simp)
  · exact ends_check _ (hc _ (by simp)) (by simp) fun _ => h _ h2

theorem precheck_ends {need : Nat} {k : Out} (hc : ∀ c ∈ [Cause.lenRegRange, .capacity], c ∈ causesOf i)
    (h : ¬ s.needTooLarge need → ∃ t, k = .next t ∧ Ends i s t) : ∃ t, precheck need s k = .next t ∧ Ends i s t :=
  ends_check _ (hc _ (by simp)) (by simp) fun _ => ends_check _ (hc _ (by simp)) (by simp) h

theorem keystreamChecks_ends {need : Nat} {k : Out}
    (hc : ∀ c ∈ [Cause.lenRegRange, .capacity, .emptyKey], c ∈ causesOf i)
    (h : ¬ s.needTooLarge need → ∃ t, k = .next t ∧ Ends i s t) :
    ∃ t, keystreamChecks need s k = .next t ∧ Ends i s t :=
  ends_check _ (hc _ (by simp)) (by simp) fun _ => ends_check _ (hc _ (by simp)) (by simp) fun h2 =>
    ends_check _ (hc _ (by simp)) (by simp) fun _ => h h2

theorem caesarCommand_ends (x : Byte) (z : Int) (hi : i = .caese x ∨ i = .caesd x) :
    ∃ t, caesarCommand x z s = .next t ∧ Ends i s t := by
  unfold caesarCommand
  rcases hi with rfl | rfl <;>
  exact ends_check _ (by simp [causesOf]) (by simp) fun _ => ends_check _ (by simp [causesOf]) (by simp) fun h2 =>
    ends_check _ (by simp [causesOf]) (by simp) fun _ =>
      ⟨_, rfl, .delivered false _ rfl rfl rfl (by simp) (fits_need _ rfl (by simp) h2)⟩

theorem vigenereCommand_ends (f : List Byte → List Byte → List Byte) (hf : ∀ d ck, (f d ck).length = d.length)
    (hi : i ∈ [.vigte, .vigtd, .vigbe, .vigbd]) : ∃ t, vigenereCommand f s = .next t ∧ Ends i s t := by
  unfold vigenereCommand
  simp only [List.mem_cons, List.not_mem_nil, or_false] at hi
  rcases hi with rfl | rfl | rfl | rfl <;>
  exact ends_check _ (by simp [causesOf]) (by simp) fun _ => ends_check _ (by simp [causesOf]) (by simp) fun h2 =>
    ends_check _ (by simp [causesOf]) (by simp) fun _ =>
      ⟨_, rfl, .delivered false _ rfl rfl rfl (by simp) (fits_need _ rfl (by simp [hf]) h2)⟩

/-- Every command in every state has a next state, and ends in one of the ways of `Ends`. -/
theorem exec_ends (i : Instr) (s : State) : ∃ t, exec i s = .next t ∧ Ends i s t := by
  cases i with
  | gfmul a b => exact ⟨_, rfl, .wroteRes _ (.inl ⟨a, b, rfl⟩)⟩
  | ldst =>
    exact ends_check _ (by simp [causesOf]) (by simp) fun _ => ends_check _ (by simp [causesOf]) (by simp) fun _ =>
      ⟨_, rfl, .wroteState _ (.inl (by simp))⟩
  | stst =>
    simp only [exec, execStst]
    split
    · exact ends_raise _ (by simp [causesOf]) (by simp)
    · exact ⟨_, rfl, .delivered false _ rfl rfl rfl (by simp)
        (.inr ⟨16, rfl, rfl, (length_fromState _).le, by simp⟩)⟩
  | subb => exact transform_ends _ (by simp [causesOf]) (by simp) (.inl (by simp))
  | isubb => exact transform_ends _ (by simp [causesOf]) (by simp) (.inl (by simp))
  | shrow => exact transform_ends _ (by simp [causesOf]) (by simp) (.inl (by simp))
  | ishrow => exact transform_ends _ (by simp [causesOf]) (by simp) (.inl (by simp))
  | mixc => exact transform_ends _ (by simp [causesOf]) (by simp) (.inl (by simp))
  | imixc => exact transform_ends _ (by simp [causesOf]) (by simp) (.inl (by simp))
  | ark rd =>
    simp only [exec, execArk]
    split
    · exact ends_raise _ (by simp [causesOf]) (by simp)
    · exact ends_raise _ (by simp [causesOf]) (by simp)
    · exact ends_check _ (by simp [causesOf]) (by simp) fun _ => ⟨_, rfl, .wroteState _ (.inr ⟨rd, rfl⟩)⟩
  | kexp ks =>
    refine ends_check _ (by simp [causesOf]) (by simp) fun _ => ?_
    split
    · exact ends_raise _ (by simp [causesOf]) (by simp)
    · rename_i size hk
      refine ends_check _ (by simp [causesOf]) (by simp) fun h2 =>
        ⟨_, rfl, .wroteSchedule _ ks rfl hk (length_expandKey ?_)⟩
      simpa using h2
  | kclr => exact ⟨_, rfl, .closed rfl⟩
  | rdrk rd =>
    simp only [exec, execRdrk]
    split
    · exact ends_raise _ (by simp [causesOf]) (by simp)
    · exact ends_check _ (by simp [causesOf]) (by simp) fun _ => ⟨_, rfl, .delivered false _ rfl rfl rfl (by simp)
        (.inr ⟨16, rfl, rfl, by simp [Quad.toList], by simp⟩)⟩
  | encb => exact block_ends _ length_encryptBlock (.inl rfl)
  | decb => exact block_ends _ length_decryptBlock (.inr rfl)
  | pad =>
    exact precheck_ends (by simp [causesOf]) fun h => ⟨_, rfl, .delivered false _ rfl rfl rfl (by simp)
      (fits_need _ rfl (by simp [paddedLength]) h)⟩
  | unpadu =>
    exact precheck_ends (by simp [causesOf]) fun h => ends_check _ (by simp [causesOf]) (by simp) fun _ =>
      ⟨_, rfl, .delivered false _ rfl rfl rfl (by simp)
        (fits_need _ rfl ((length_unpadU_le ..).trans_eq (input_length s)) h)⟩
  | unpadv =>
    exact precheck_ends (by simp [causesOf]) fun h =>
      ⟨_, rfl, .delivered _ _ rfl rfl rfl (fun _ => rfl)
        (fits_need _ rfl ((length_unpadV_le ..).trans_eq (input_length s)) h)⟩
  | hexe =>
    exact precheck_ends (by simp [causesOf]) fun h => ⟨_, rfl, .delivered false _ rfl rfl rfl (by simp)
      (fits_need _ rfl (by simp) h)⟩
  | hexd =>
    refine precheck_ends (by simp [causesOf]) fun h => ?_
    split
    · exact ends_raise _ (by simp [causesOf]) (by simp)
    · rename_i d hd
      have := length_hexDec hd
      rw [input_length] at this
      exact ⟨_, rfl, .delivered false _ rfl rfl rfl (by simp) (fits_need _ rfl (by omega) h)⟩
  | u8chk =>
    exact ends_check _ (by simp [causesOf]) (by simp) fun _ => ends_check _ (by simp [causesOf]) (by simp) fun _ =>
      ⟨_, rfl, .passed rfl⟩
  | kdf ks =>
    refine ends_check _ (by simp [causesOf]) (by simp) fun _ => ?_
    split
    · exact ends_raise _ (by simp [causesOf]) (by simp)
    · rename_i size hk
      exact ends_check _ (by simp [causesOf]) (by simp) fun _ => ⟨_, rfl, .delivered false _ rfl rfl rfl (by simp)
        (.inr ⟨size.bytes, by simp [smallNeedOf, hk], rfl, (length_deriveKey ..).le, by simp⟩)⟩
  | aeste ks =>
    refine payloadChecks_ends (by simp [causesOf]) fun size h => ⟨_, rfl, .payload false _ ks (.inl rfl) (by simp)
      (fits_need _ rfl (by simp [paddedLength]) h)⟩
  | aestd ks =>
    refine payloadChecks_ends (by simp [causesOf]) fun size h => ?_
    split
    · exact ends_raise _ (by simp [causesOf]) (by simp)
    · rename_i c hc
      refine ends_check _ (by simp [causesOf]) (by simp) fun _ =>
        ends_check _ (by simp [causesOf]) (by simp) fun _ => ?_
      have := length_hexDec hc
      rw [input_length] at this
      dsimp only
      unfold check
      split_ifs
      · exact ⟨_, rfl, .late ks rfl⟩
      · refine ⟨_, rfl, .payload false _ ks (.inr (.inl rfl)) (by simp) (fits_need _ rfl ?_ h)⟩
        have := (length_unpadU_le s.params.textUnpadCorner _).trans (length_ecbDec_le c (s.sessionWords size) size.rounds)
        omega
  | aesfe ks =>
    refine payloadChecks_ends (by simp [causesOf]) fun size h => ⟨_, rfl, .payload false _ ks (.inr (.inr (.inl rfl)))
      (by simp) (fits_need _ rfl ?_ h)⟩
    rw [length_ecbEnc_padFile, input_length]
    rfl
  | aesfd ks =>
    refine payloadChecks_ends (by simp [causesOf]) fun size h =>
      ends_check _ (by simp [causesOf]) (by simp) fun _ => ⟨_, rfl, .payload _ _ ks (.inr (.inr (.inr rfl)))
        (fun _ => rfl) (fits_need _ rfl ?_ h)⟩
    have := (length_unpadV_le _).trans (length_ecbDec_le s.input (s.sessionWords size) size.rounds)
    rwa [input_length] at this
  | caese x => exact caesarCommand_ends x _ (.inl rfl)
  | caesd x => exact caesarCommand_ends x _ (.inr rfl)
  | vkcln =>
    refine ends_check _ (by simp [causesOf]) (by simp) fun h1 => ends_check _ (by simp [causesOf]) (by simp) fun _ =>
      ⟨_, rfl, .delivered false _ rfl rfl rfl (by simp)
        (.inr ⟨s.kn, rfl, rfl, (length_cleanKey_le _).trans_eq (key_length s), fun _ => not_lt.1 h1⟩)⟩
  | vigte => exact vigenereCommand_ends (i := .vigte) _ (fun d ck => length_vigText d ck 1) (by simp)
  | vigtd => exact vigenereCommand_ends (i := .vigtd) _ (fun d ck => length_vigText d ck (-1)) (by simp)
  | vigbe => exact vigenereCommand_ends (i := .vigbe) _ (fun d ck => length_vigBin d ck 1) (by simp)
  | vigbd => exact vigenereCommand_ends (i := .vigbd) _ (fun d ck => length_vigBin d ck (-1)) (by simp)
  | ksgen =>
    exact keystreamChecks_ends (by simp [causesOf]) fun h => ⟨_, rfl, .delivered false _ rfl rfl rfl (by simp)
      (fits_need _ rfl (by simp) h)⟩
  | kste =>
    exact keystreamChecks_ends (by simp [causesOf]) fun h => ⟨_, rfl, .delivered false _ rfl rfl rfl (by simp)
      (fits_need _ rfl (by simp) h)⟩
  | kstd =>
    refine keystreamChecks_ends (by simp [causesOf]) fun h => ?_
    split
    · exact ends_raise _ (by simp [causesOf]) (by simp)
    · rename_i c hc
      have := length_hexDec hc
      rw [input_length] at this
      exact ends_check _ (by simp [causesOf]) (by simp) fun _ => ⟨_, rfl, .delivered false _ rfl rfl rfl (by simp)
        (fits_need _ rfl (by simp; omega) h)⟩
  | ksb =>
    exact keystreamChecks_ends (by simp [causesOf]) fun h => ⟨_, rfl, .delivered false _ rfl rfl rfl (by simp)
      (fits_need _ rfl (by simp) h)⟩
  | sniff =>
    exact ends_check _ (by simp [causesOf]) (by simp) fun _ => ⟨_, rfl, .wroteRes _ (.inr rfl)⟩

end Sys2Proof.Machine
end

