-- ==== Sys2Proof/Laws/PerInstr.lean ====
section
/-! SUPPORT. The family EncodingMatchesRow, one lemma per command: the word that spells a command is the match of its row
once the row's mask leaves out the operand fields (30_encoding R106, opcode_table.json), and its format's reserved bits
are 0. -/

namespace Sys2Proof.Laws.EncodingMatchesRow

open Sys2Proof

/-- Outside its format's operand fields the word is the opcode, all reserved bits being 0 (30_encoding R91, R106). -/
def Statement (i : Instr) : Prop :=
  encode i &&& ~~~ (i.format.fieldMask &&& 0xFFFFFF00#32) = i.opcode.setWidth 32

/-- Bit by bit, for a word of three bytes above its opcode. -/
theorem and_or_low (x y m : Word32) (hx : x &&& ~~~ m = 0#32) (hy : y &&& ~~~ m = y) :
    (x ||| y) &&& ~~~ m = y := by
  ext i hi
  have h1 := congrArg (fun w : Word32 => w[i]) hx
  have h2 := congrArg (fun w : Word32 => w[i]) hy
  simp only [BitVec.getElem_and, BitVec.getElem_or, BitVec.getElem_not, BitVec.getElem_zero] at *
  revert h1 h2
  cases x[i] <;> cases y[i] <;> cases m[i] <;> simp

theorem shiftField_clear (v : Byte) : (0#8 ++ v ++ 0#16 : Word32) &&& ~~~ (0x00FF00FF#32 &&& 0xFFFFFF00#32) = 0#32 := by
  revert v; decide +kernel

theorem ridxField_clear (v : BitVec 4) :
    (0#12 ++ v ++ 0#16 : Word32) &&& ~~~ (0x000F00FF#32 &&& 0xFFFFFF00#32) = 0#32 := by
  revert v; decide +kernel

theorem ksField_clear (v : BitVec 2) :
    (0#22 ++ v ++ 0#8 : Word32) &&& ~~~ (0x000003FF#32 &&& 0xFFFFFF00#32) = 0#32 := by
  revert v; decide +kernel

theorem byteFields_clear (a b : Byte) :
    (0#8 ++ b ++ a ++ 0#8 : Word32) &&& ~~~ (0x00FFFFFF#32 &&& 0xFFFFFF00#32) = 0#32 := by
  ext i hi
  simp only [BitVec.getElem_append, BitVec.getElem_and, BitVec.getElem_not]
  interval_cases i <;> simp

theorem gfmul (a : Byte) (b : Byte) : Statement (.gfmul a b) :=
  and_or_low _ _ _ (byteFields_clear a b) (by simp only [Instr.opcode, Instr.format, Format.fieldMask]; decide)

theorem ldst : Statement .ldst := by unfold Statement; decide

theorem stst : Statement .stst := by unfold Statement; decide

theorem subb : Statement .subb := by unfold Statement; decide

theorem isubb : Statement .isubb := by unfold Statement; decide

theorem shrow : Statement .shrow := by unfold Statement; decide

theorem ishrow : Statement .ishrow := by unfold Statement; decide

theorem mixc : Statement .mixc := by unfold Statement; decide

theorem imixc : Statement .imixc := by unfold Statement; decide

theorem ark (ridx : BitVec 4) : Statement (.ark ridx) :=
  and_or_low _ _ _ (ridxField_clear ridx) (by simp only [Instr.opcode, Instr.format, Format.fieldMask]; decide)

theorem kexp (ks : BitVec 2) : Statement (.kexp ks) :=
  and_or_low _ _ _ (ksField_clear ks) (by simp only [Instr.opcode, Instr.format, Format.fieldMask]; decide)

theorem kclr : Statement .kclr := by unfold Statement; decide

theorem rdrk (ridx : BitVec 4) : Statement (.rdrk ridx) :=
  and_or_low _ _ _ (ridxField_clear ridx) (by simp only [Instr.opcode, Instr.format, Format.fieldMask]; decide)

theorem encb : Statement .encb := by unfold Statement; decide

theorem decb : Statement .decb := by unfold Statement; decide

theorem pad : Statement .pad := by unfold Statement; decide

theorem unpadu : Statement .unpadu := by unfold Statement; decide

theorem unpadv : Statement .unpadv := by unfold Statement; decide

theorem hexe : Statement .hexe := by unfold Statement; decide

theorem hexd : Statement .hexd := by unfold Statement; decide

theorem u8chk : Statement .u8chk := by unfold Statement; decide

theorem kdf (ks : BitVec 2) : Statement (.kdf ks) :=
  and_or_low _ _ _ (ksField_clear ks) (by simp only [Instr.opcode, Instr.format, Format.fieldMask]; decide)

theorem aeste (ks : BitVec 2) : Statement (.aeste ks) :=
  and_or_low _ _ _ (ksField_clear ks) (by simp only [Instr.opcode, Instr.format, Format.fieldMask]; decide)

theorem aestd (ks : BitVec 2) : Statement (.aestd ks) :=
  and_or_low _ _ _ (ksField_clear ks) (by simp only [Instr.opcode, Instr.format, Format.fieldMask]; decide)

theorem aesfe (ks : BitVec 2) : Statement (.aesfe ks) :=
  and_or_low _ _ _ (ksField_clear ks) (by simp only [Instr.opcode, Instr.format, Format.fieldMask]; decide)

theorem aesfd (ks : BitVec 2) : Statement (.aesfd ks) :=
  and_or_low _ _ _ (ksField_clear ks) (by simp only [Instr.opcode, Instr.format, Format.fieldMask]; decide)

theorem caese (shift : Byte) : Statement (.caese shift) :=
  and_or_low _ _ _ (shiftField_clear shift) (by simp only [Instr.opcode, Instr.format, Format.fieldMask]; decide)

theorem caesd (shift : Byte) : Statement (.caesd shift) :=
  and_or_low _ _ _ (shiftField_clear shift) (by simp only [Instr.opcode, Instr.format, Format.fieldMask]; decide)

theorem vkcln : Statement .vkcln := by unfold Statement; decide

theorem vigte : Statement .vigte := by unfold Statement; decide

theorem vigtd : Statement .vigtd := by unfold Statement; decide

theorem vigbe : Statement .vigbe := by unfold Statement; decide

theorem vigbd : Statement .vigbd := by unfold Statement; decide

theorem ksgen : Statement .ksgen := by unfold Statement; decide

theorem kste : Statement .kste := by unfold Statement; decide

theorem kstd : Statement .kstd := by unfold Statement; decide

theorem ksb : Statement .ksb := by unfold Statement; decide

theorem sniff : Statement .sniff := by unfold Statement; decide

end Sys2Proof.Laws.EncodingMatchesRow
end

