-- ==== Sys2Proof/Tests/Slice0.lean ====
section
/-! SUPPORT. Tests of the model. The expected values are those of the spec: the words of 30_encoding R91, R98 and R103,
the published and derived vectors of 95_test_vectors, the corner cases of the commands' rules and the tables of
20_memory R72 and 60_exceptions R321. `test_<command>` shows an effect, `test_<command>_checks` the STATUS word of each
check at a boundary and the success beside it, and `witness_<statement>` states and operands that meet the hypotheses of
a statement of Certificates/Slice0/Obligations.lean, clause by clause. -/

namespace Sys2Proof.Tests

set_option Elab.async false

open Sys2Proof Sys2Proof.Machine

/-- The n bytes of a number, most significant first. -/
def bytes (n v : Nat) : List Byte := (List.range n).map fun i => BitVec.ofNat 8 (v / 256 ^ (n - 1 - i))

/-- n copies of the byte 0x61. -/
def letters (n : Nat) : List Byte := List.replicate n 0x61#8

/-- Capacities of 32 bytes each, the least that 00_scope R6 allows. -/
def small : Params := { ibufCap := 32, obufCap := 32, kbufCap := 32 }

/-- The reset state with a payload and a key given by the host. -/
def given (input key : List Byte) : State :=
  { State.reset with
    ibuf := Memory.bytesFrom 0 input
    ilen := BitVec.ofNat 32 input.length
    kbuf := Memory.bytesFrom 0 key
    klen := BitVec.ofNat 32 key.length }

/-- The same with the small capacities. -/
def smallGiven (input key : List Byte) : State := { given input key with params := small }

/-- n letters of payload and k of key, with room for 96 bytes in IBUF but for 32 in OBUF. -/
def roomy (n k : Nat) : State :=
  { given (letters n) (letters k) with params := { small with ibufCap := 96 } }

/-- STATE holds a block. -/
def withState (block : List Byte) (s : State) : State := { s with aesState := some (toState block) }

/-- RK holds the schedule of a key. -/
def withKey (size : KeySize) (key : List Byte) (s : State) : State := { s with rk := some (scheduleOf size key) }

/-- STATUS, OLEN and the output payload after a step. -/
def result : Out → Word32 × Word32 × List Byte
  | .next t => (t.status, t.olen, t.output)
  | _ => (0xFFFFFFFF#32, 0#32, [])

/-- STATUS after a step. -/
def statusOf : Out → Word32
  | .next t => t.status
  | _ => 0xFFFFFFFF#32

/-- The state after a step. -/
def after : Out → State
  | .next t => t
  | _ => State.reset

/-- The block in STATE after a step, as STST would deliver it. -/
def blockAfter (o : Out) : Option (List Byte) := (after o).aesState.map fromState

/-- The key 00 01 02 .. of n bytes. -/
def count (n : Nat) : List Byte := (List.range n).map (BitVec.ofNat 8)

/-! ## Syntax, well-formedness, decoding -/

/-- An ill-formed term for each check of WellFormed, which the check refuses (30_encoding R97). -/
theorem test_wellFormed_refuses :
    Instr.wellFormed (.ark 15) = false ∧ Instr.wellFormed (.rdrk 15) = false ∧ Instr.wellFormed (.kexp 3) = false ∧
    Instr.wellFormed (.kdf 3) = false ∧ Instr.wellFormed (.aeste 3) = false ∧ Instr.wellFormed (.aestd 3) = false ∧
    Instr.wellFormed (.aesfe 3) = false ∧ Instr.wellFormed (.aesfd 3) = false ∧ Instr.wellFormed (.caese 0) = false ∧
    Instr.wellFormed (.caese 26) = false ∧ Instr.wellFormed (.caesd 0) = false ∧
    Instr.wellFormed (.caesd 26) = false := by decide +kernel

/-- The legal values at the ends of their ranges. -/
theorem test_wellFormed_accepts :
    Instr.wellFormed (.ark 14) = true ∧ Instr.wellFormed (.rdrk 0) = true ∧ Instr.wellFormed (.kexp 2) = true ∧
    Instr.wellFormed (.caese 1) = true ∧ Instr.wellFormed (.caesd 25) = true ∧
    Instr.wellFormed (.gfmul 0xFF 0xFF) = true := by decide +kernel

/-- The words of R98 for the commands without operands of units ACT, AKS and ABE: the opcode, all other bits 0. -/
theorem test_decode_transform :
    decodeTableWord 8 0x10 = some .ldst ∧ decodeTableWord 8 0x11 = some .stst ∧
    decodeTableWord 8 0x12 = some .subb ∧ decodeTableWord 8 0x13 = some .isubb ∧
    decodeTableWord 8 0x14 = some .shrow ∧ decodeTableWord 8 0x15 = some .ishrow ∧
    decodeTableWord 8 0x16 = some .mixc ∧ decodeTableWord 8 0x17 = some .imixc ∧
    decodeTableWord 8 0x21 = some .kclr ∧ decodeTableWord 8 0x30 = some .encb ∧
    decodeTableWord 8 0x31 = some .decb := by decide +kernel

/-- The same for the framing commands. -/
theorem test_decode_framing :
    decodeTableWord 8 0x40 = some .pad ∧ decodeTableWord 8 0x41 = some .unpadu ∧
    decodeTableWord 8 0x42 = some .unpadv ∧ decodeTableWord 8 0x43 = some .hexe ∧
    decodeTableWord 8 0x44 = some .hexd ∧ decodeTableWord 8 0x45 = some .u8chk := by decide +kernel

/-- The same for the legacy engines. -/
theorem test_decode_legacy :
    decodeTableWord 8 0x52 = some .vkcln ∧ decodeTableWord 8 0x54 = some .vigte ∧
    decodeTableWord 8 0x55 = some .vigtd ∧ decodeTableWord 8 0x56 = some .vigbe ∧
    decodeTableWord 8 0x57 = some .vigbd ∧ decodeTableWord 8 0x60 = some .ksgen ∧
    decodeTableWord 8 0x61 = some .kste ∧ decodeTableWord 8 0x62 = some .kstd ∧
    decodeTableWord 8 0x63 = some .ksb ∧ decodeTableWord 8 0x64 = some .sniff := by decide +kernel

/-- GFMUL 0x57, 0x83: the opcode, A = 0x57 in bits 15:8, B = 0x83 in bits 23:16. -/
theorem test_decode_gfmul :
    decode (0#8 ++ 0b10000011#8 ++ 0b01010111#8 ++ 0b00000001#8 : Word32) = .ok (.gfmul 0x57 0x83) ∧
    decode 0x00CA5301#32 = .ok (.gfmul 0x53 0xCA) := by decide +kernel

/-- RIDX is bits 19:16, for ARK and RDRK. -/
theorem test_decode_ridx :
    decode (0#12 ++ 0b1010#4 ++ 0#8 ++ 0b00011000#8 : Word32) = .ok (.ark 10) ∧
    decode 0x000F0018#32 = .ok (.ark 15) ∧ decode 0x00000022#32 = .ok (.rdrk 0) ∧
    decode 0x000D0022#32 = .ok (.rdrk 13) := by decide +kernel

/-- KS is bits 9:8, for the six commands of format K. -/
theorem test_decode_ks :
    decode (0#22 ++ 0b01#2 ++ 0b00100000#8 : Word32) = .ok (.kexp 1) ∧ decode 0x00000320#32 = .ok (.kexp 3) ∧
    decode 0x00000246#32 = .ok (.kdf 2) ∧ decode 0x00000048#32 = .ok (.aeste 0) ∧
    decode 0x00000149#32 = .ok (.aestd 1) ∧ decode 0x0000024A#32 = .ok (.aesfe 2) ∧
    decode 0x0000004B#32 = .ok (.aesfd 0) := by decide +kernel

/-- SHIFT is bits 23:16, for CAESE and CAESD. -/
theorem test_decode_shift :
    decode (0#8 ++ 0b00011001#8 ++ 0#8 ++ 0b01010000#8 : Word32) = .ok (.caese 25) ∧
    decode 0x00030051#32 = .ok (.caesd 3) ∧ decode 0x00FF0050#32 = .ok (.caese 0xFF) := by decide +kernel

/-- The opcode is judged before the reserved bits, and each format has its own (95_test_vectors 2.8). -/
theorem test_decode_refuses :
    decode 0x00000000#32 = .error .badOpcode ∧ decode 0xFFFFFFFF#32 = .error .badOpcode ∧
    decode 0x00000047#32 = .error .badOpcode ∧ decode 0x00000053#32 = .error .badOpcode ∧
    decode 0xFFFFFF47#32 = .error .badOpcode ∧ decode 0x00000112#32 = .error .reservedBits ∧
    decode 0x01835701#32 = .error .reservedBits ∧ decode 0x00100018#32 = .error .reservedBits ∧
    decode 0x00000420#32 = .error .reservedBits ∧ decode 0x01030050#32 = .error .reservedBits ∧
    decode 0x00030150#32 = .error .reservedBits ∧ decode 0x00010030#32 = .error .reservedBits := by decide +kernel

/-- 30_encoding R103: how a listing spells a command. -/
theorem test_asm : asm (.gfmul 0x57 0x83) = "GFMUL 87, 131" ∧ asm (.kexp 1) = "KEXP 192" ∧ asm .ldst = "LDST" := by
  decide +kernel

/-! ## The machine -/

/-- 95_test_vectors 2.8: an undefined word is reported, whatever the state. -/
theorem test_issue_undefined :
    result (issue 0x00000047#32 State.reset) = (0x015#32, 0#32, []) ∧
    result (issue 0x00000112#32 State.reset) = (0x025#32, 0#32, []) := by decide +kernel

/-- 10_state R36: registers by number. -/
theorem test_registers :
    (after (hostAct (.readReg 1) { State.reset with status := 0x300#32 })).reply = some (.word 0x300#32) ∧
    (after (hostAct (.writeReg 2 0xFFFFFFFF#32) State.reset)).ilen = 0xFFFFFFFF#32 ∧
    (after (hostAct (.writeReg 4 7#32) State.reset)).olen = 0#32 ∧
    (after (hostAct (.readReg 5) { State.reset with res := 0xC1#8 })).reply = some (.word 0x000000C1#32) := by
  decide +kernel

/-- 20_memory R64: at the capacity a buffer read gives 0 and a write is ignored; one below, both reach the byte. -/
theorem test_buffers :
    (after (hostAct (.writeBuf .ibuf 65536 1#8) State.reset)).ibuf = [] ∧
    (after (hostAct (.writeBuf .ibuf 65535 1#8) State.reset)).ibuf = [(65535, 1#8)] ∧
    (after (hostAct (.readBuf .kbuf 256) State.reset)).reply = some (.byte 0#8) ∧
    (after (hostAct (.readBuf .kbuf 1) (given [] [7#8, 9#8]))).reply = some (.byte 9#8) := by decide +kernel

/-- 70_reset R360: reset in the middle of a session. -/
theorem test_reset :
    let t := after (step { withState (count 16) (withKey .k128 (count 16) (given [1#8] [2#8])) with inbox :=
        [.reset] })
    t.stv = false ∧ t.rkv = false ∧ t.ilen = 0#32 ∧ t.ibuf = [] := by decide +kernel

/-- The list of a buffer stays in order, and the latest write of an index counts. -/
theorem test_memory_set :
    Memory.set (Memory.set (Memory.set [] 2 5#8) 0 7#8) 2 6#8 = [(0, 7#8), (2, 6#8)] := by decide +kernel

/-! ## The Galois-field multiplier and the AES core transform -/

/-- 95_test_vectors 2.1. -/
theorem test_gfmul :
    (after (issue 0x00835701#32 State.reset)).res = 0xC1#8 ∧
    (after (issue 0x00800201#32 State.reset)).res = 0x1B#8 ∧
    (after (issue 0x00FFFF01#32 State.reset)).res = 0x13#8 := by decide +kernel

/-- GFMUL succeeds whatever the length registers hold; only its reserved bits are refused. -/
theorem test_gfmul_checks :
    statusOf (issue 0x00835701#32 { State.reset with ilen := 0xFFFFFFFF#32, klen := 0xFFFFFFFF#32 }) = 0x200#32 ∧
    statusOf (issue 0x01835701#32 State.reset) = 0x025#32 := by decide +kernel

/-- 10_state R23: byte 1 of the block is row 1, column 0. -/
theorem test_ldst :
    blockAfter (issue 0x00000010#32 (given (count 16) [])) = some (count 16) ∧
    ((after (issue 0x00000010#32 (given (count 16) []))).aesState.map fun m => m.at 1 0) = some 1#8 ∧
    ((after (issue 0x00000010#32 (given (count 16) []))).aesState.map fun m => m.at 0 1) = some 4#8 := by
  decide +kernel

/-- 41_aes_core_transform R143: LenRegRange, then Length. -/
theorem test_ldst_checks :
    statusOf (issue 0x00000010#32 (smallGiven (letters 33) [])) = 0x085#32 ∧
    statusOf (issue 0x00000010#32 (smallGiven (letters 32) [])) = 0x075#32 ∧
    statusOf (issue 0x00000010#32 (smallGiven (letters 15) [])) = 0x075#32 ∧
    statusOf (issue 0x00000010#32 (smallGiven (letters 16) [])) = 0x200#32 := by decide +kernel

/-- 41_aes_core_transform R144: STATE goes out in the order it came in, and stays. -/
theorem test_stst :
    result (issue 0x00000011#32 (withState (count 16) State.reset)) = (0x200#32, 16#32, count 16) ∧
    blockAfter (issue 0x00000011#32 (withState (count 16) State.reset)) = some (count 16) := by decide +kernel

/-- StateInvalid without STATE. -/
theorem test_stst_checks :
    statusOf (issue 0x00000011#32 State.reset) = 0x045#32 ∧
    statusOf (issue 0x00000011#32 (withState (count 16) State.reset)) = 0x200#32 := by decide +kernel

/-- 95_test_vectors 2.2. -/
theorem test_subb :
    blockAfter (issue 0x00000012#32 (withState (bytes 16 0x00102030405060708090a0b0c0d0e0f0) State.reset)) =
      some (bytes 16 0x63cab7040953d051cd60e0e7ba70e18c) := by
  decide +kernel

/-- StateInvalid without STATE (41_aes_core_transform R140). -/
theorem test_subb_checks :
    statusOf (issue 0x00000012#32 State.reset) = 0x045#32 ∧
    statusOf (issue 0x00000012#32 (withState (count 16) State.reset)) = 0x200#32 := by decide +kernel

/-- 95_test_vectors 2.2. -/
theorem test_isubb :
    blockAfter (issue 0x00000013#32 (withState (bytes 16 0x637c777bf26b6fc53001672bfed7ab76) State.reset)) =
      some (bytes 16 0x000102030405060708090a0b0c0d0e0f) := by
  decide +kernel

/-- StateInvalid without STATE (41_aes_core_transform R140). -/
theorem test_isubb_checks :
    statusOf (issue 0x00000013#32 State.reset) = 0x045#32 ∧
    statusOf (issue 0x00000013#32 (withState (count 16) State.reset)) = 0x200#32 := by decide +kernel

/-- 95_test_vectors 2.2. -/
theorem test_shrow :
    blockAfter (issue 0x00000014#32 (withState (bytes 16 0x000102030405060708090a0b0c0d0e0f) State.reset)) =
      some (bytes 16 0x00050a0f04090e03080d02070c01060b) := by
  decide +kernel

/-- StateInvalid without STATE (41_aes_core_transform R140). -/
theorem test_shrow_checks :
    statusOf (issue 0x00000014#32 State.reset) = 0x045#32 ∧
    statusOf (issue 0x00000014#32 (withState (count 16) State.reset)) = 0x200#32 := by decide +kernel

/-- 95_test_vectors 2.2. -/
theorem test_ishrow :
    blockAfter (issue 0x00000015#32 (withState (bytes 16 0x000102030405060708090a0b0c0d0e0f) State.reset)) =
      some (bytes 16 0x000d0a0704010e0b0805020f0c090603) := by
  decide +kernel

/-- StateInvalid without STATE (41_aes_core_transform R140). -/
theorem test_ishrow_checks :
    statusOf (issue 0x00000015#32 State.reset) = 0x045#32 ∧
    statusOf (issue 0x00000015#32 (withState (count 16) State.reset)) = 0x200#32 := by decide +kernel

/-- 95_test_vectors 2.2. -/
theorem test_mixc :
    blockAfter (issue 0x00000016#32 (withState (bytes 16 0xdb135345f20a225c01010101c6c6c6c6) State.reset)) =
      some (bytes 16 0x8e4da1bc9fdc589d01010101c6c6c6c6) := by
  decide +kernel

/-- StateInvalid without STATE (41_aes_core_transform R140). -/
theorem test_mixc_checks :
    statusOf (issue 0x00000016#32 State.reset) = 0x045#32 ∧
    statusOf (issue 0x00000016#32 (withState (count 16) State.reset)) = 0x200#32 := by decide +kernel

/-- 95_test_vectors 2.2. -/
theorem test_imixc :
    blockAfter (issue 0x00000017#32 (withState (bytes 16 0xd5d5d7d64d7ebdf80000000002010103) State.reset)) =
      some (bytes 16 0xd4d4d4d52d26314c0000000001000000) := by
  decide +kernel

/-- StateInvalid without STATE (41_aes_core_transform R140). -/
theorem test_imixc_checks :
    statusOf (issue 0x00000017#32 State.reset) = 0x045#32 ∧
    statusOf (issue 0x00000017#32 (withState (count 16) State.reset)) = 0x200#32 := by decide +kernel

/-- 95_test_vectors 2.2. -/
theorem test_ark :
    blockAfter (issue 0x00010018#32 (withState (bytes 16 0x5f72641557f5bc92f7be3b291db9f91a) (withKey .k128 (count
        16) State.reset))) =
      some (bytes 16 0x89d810e8855ace682d1843d8cb128fe4) ∧
    blockAfter (issue 0x000A0018#32 (withState (bytes 16 0x00000000000000000000000000000000) (withKey .k128 (count
        16) State.reset))) =
      some (bytes 16 0x13111d7fe3944a17f307a78b4d2b30c5) := by decide +kernel

/-- 95_test_vectors 2.8: StateInvalid, then RoundKeysInvalid, then RoundIndex above N. -/
theorem test_ark_checks :
    statusOf (issue 0x000F0018#32 State.reset) = 0x045#32 ∧
    statusOf (issue 0x000F0018#32 (withState (count 16) State.reset)) = 0x055#32 ∧
    statusOf (issue 0x000B0018#32 (withState (count 16) (withKey .k128 (count 16) State.reset))) = 0x065#32 ∧
    statusOf (issue 0x000A0018#32 (withState (count 16) (withKey .k128 (count 16) State.reset))) = 0x200#32 ∧
    statusOf (issue 0x000E0018#32 (withState (count 16) (withKey .k256 (count 32) State.reset))) = 0x200#32 := by
  decide +kernel

/-! ## The key schedule and the block engine -/

/-- 95_test_vectors 2.3: the first new words, and the last of the longest schedule. -/
theorem test_kexp :
    (expandKey .k128 (count 16))[4]? = some ⟨0xd6#8, 0xaa#8, 0x74#8, 0xfd#8⟩ ∧
    (expandKey .k192 (count 24))[12]? = some ⟨0x40#8, 0xf9#8, 0x49#8, 0xb3#8⟩ ∧
    (expandKey .k256 (count 32))[12]? = some ⟨0x16#8, 0x51#8, 0xa8#8, 0xcd#8⟩ ∧
    (expandKey .k256 (count 32))[59]? = some ⟨0x6d#8, 0x68#8, 0xde#8, 0x36#8⟩ ∧
    ((after (issue 0x00000220#32 (given [] (count 32)))).rk.map fun r => r.words.length) = some 60 := by
  decide +kernel

/-- 42_aes_key_schedule R173: LenRegRange, KeySizeSelect, KeyLength. -/
theorem test_kexp_checks :
    statusOf (issue 0x00000320#32 (smallGiven [] (letters 33))) = 0x085#32 ∧
    statusOf (issue 0x00000320#32 (smallGiven [] (letters 32))) = 0x051#32 ∧
    statusOf (issue 0x00000220#32 (smallGiven [] (letters 31))) = 0x011#32 ∧
    statusOf (issue 0x00000220#32 (smallGiven [] (letters 32))) = 0x200#32 ∧
    statusOf (issue 0x00000120#32 (smallGiven [] (letters 24))) = 0x200#32 ∧
    statusOf (issue 0x00000020#32 (smallGiven [] (letters 17))) = 0x011#32 ∧
    statusOf (issue 0x00000020#32 (smallGiven [] (letters 16))) = 0x200#32 := by decide +kernel

/-- 42_aes_key_schedule R175. -/
theorem test_kclr :
    (after (issue 0x00000021#32 (withState (count 16) (withKey .k128 (count 16) State.reset)))).rkv = false ∧
    (after (issue 0x00000021#32 (withState (count 16) (withKey .k128 (count 16) State.reset)))).stv = false ∧
    statusOf (issue 0x00000021#32 State.reset) = 0x200#32 := by decide +kernel

/-- 95_test_vectors 2.3. -/
theorem test_rdrk :
    result (issue 0x00010022#32 (withKey .k128 (count 16) State.reset)) =
      (0x200#32, 16#32, bytes 16 0xd6aa74fdd2af72fadaa678f1d6ab76fe) ∧
    result (issue 0x000E0022#32 (withKey .k256 (count 32) State.reset)) =
      (0x200#32, 16#32, bytes 16 0x24fc79ccbf0979e9371ac23c6d68de36) := by decide +kernel

/-- RoundKeysInvalid, then RoundIndex above N. -/
theorem test_rdrk_checks :
    statusOf (issue 0x00000022#32 State.reset) = 0x055#32 ∧
    statusOf (issue 0x000B0022#32 (withKey .k128 (count 16) State.reset)) = 0x065#32 ∧
    statusOf (issue 0x000A0022#32 (withKey .k128 (count 16) State.reset)) = 0x200#32 ∧
    statusOf (issue 0x000D0022#32 (withKey .k192 (count 24) State.reset)) = 0x065#32 ∧
    statusOf (issue 0x000F0022#32 (withKey .k256 (count 32) State.reset)) = 0x065#32 := by decide +kernel

/-- 95_test_vectors 1.2: the published AES-128 and AES-256 blocks. -/
theorem test_encb :
    result (issue 0x00000030#32 (withKey .k128 (count 16) (given (bytes 16 0x00112233445566778899aabbccddeeff) []))) =
      (0x200#32, 16#32, bytes 16 0x69c4e0d86a7b0430d8cdb78070b4c55a) ∧
    result (issue 0x00000030#32 (withKey .k256 (count 32) (given (bytes 16 0x00112233445566778899aabbccddeeff) []))) =
      (0x200#32, 16#32, bytes 16 0x8ea2b7ca516745bfeafc49904b496089) := by decide +kernel

/-- 95_test_vectors 1.2: the published AES-192 block, decrypted. -/
theorem test_decb :
    result (issue 0x00000031#32 (withKey .k192 (count 24) (given (bytes 16 0xdda97ca4864cdfe06eaf70a0ec0d7191) []))) =
      (0x200#32, 16#32, bytes 16 0x00112233445566778899aabbccddeeff) := by decide +kernel

/-- LenRegRange, RoundKeysInvalid, Length (43_aes_block_engine R192, R193); STATE is used up. -/
theorem test_encb_checks :
    statusOf (issue 0x00000030#32 (smallGiven (letters 33) [])) = 0x085#32 ∧
    statusOf (issue 0x00000030#32 (smallGiven (letters 16) [])) = 0x055#32 ∧
    statusOf (issue 0x00000030#32 (withKey .k128 (count 16) (smallGiven (letters 32) []))) = 0x075#32 ∧
    statusOf (issue 0x00000030#32 (withKey .k128 (count 16) (smallGiven (letters 15) []))) = 0x075#32 ∧
    statusOf (issue 0x00000030#32 (withKey .k128 (count 16) (smallGiven (letters 16) []))) = 0x200#32 ∧
    (after (issue 0x00000030#32 (withState (count 16) (withKey .k128 (count 16)
      (smallGiven (letters 16) []))))).stv = false := by
  decide +kernel

/-- LenRegRange, RoundKeysInvalid, Length (43_aes_block_engine R192, R193); STATE is used up. -/
theorem test_decb_checks :
    statusOf (issue 0x00000031#32 (smallGiven (letters 33) [])) = 0x085#32 ∧
    statusOf (issue 0x00000031#32 (smallGiven (letters 16) [])) = 0x055#32 ∧
    statusOf (issue 0x00000031#32 (withKey .k128 (count 16) (smallGiven (letters 32) []))) = 0x075#32 ∧
    statusOf (issue 0x00000031#32 (withKey .k128 (count 16) (smallGiven (letters 15) []))) = 0x075#32 ∧
    statusOf (issue 0x00000031#32 (withKey .k128 (count 16) (smallGiven (letters 16) []))) = 0x200#32 ∧
    (after (issue 0x00000031#32 (withState (count 16) (withKey .k128 (count 16)
      (smallGiven (letters 16) []))))).stv = false := by
  decide +kernel

/-! ## The framing commands -/

/-- 95_test_vectors 2.5. -/
theorem test_pad :
    result (issue 0x00000040#32 (given [] [])) = (0x200#32, 16#32, bytes 16 0x10101010101010101010101010101010) ∧
    result (issue 0x00000040#32 (given (bytes 1 0x41) [])) =
      (0x200#32, 16#32, bytes 16 0x410f0f0f0f0f0f0f0f0f0f0f0f0f0f0f) ∧
    result (issue 0x00000040#32 (given (bytes 15 0x000102030405060708090a0b0c0d0e) [])) =
      (0x200#32, 16#32, bytes 16 0x000102030405060708090a0b0c0d0e01) := by
  decide +kernel

/-- LenRegRange, then Capacity: 31 bytes pad to 32, 32 bytes to 48. -/
theorem test_pad_checks :
    statusOf (issue 0x00000040#32 (smallGiven (letters 33) [])) = 0x085#32 ∧
    statusOf (issue 0x00000040#32 (smallGiven (letters 32) [])) = 0x035#32 ∧
    statusOf (issue 0x00000040#32 (smallGiven (letters 31) [])) = 0x200#32 := by decide +kernel

/-- 95_test_vectors 2.5. -/
theorem test_unpadu :
    result (issue 0x00000041#32 (given (bytes 16 0x4142434445464748494a4b4c4d4e0703) [])) =
      (0x200#32, 13#32, bytes 13 0x4142434445464748494a4b4c4d) ∧
    result (issue 0x00000041#32 (given (bytes 16 0x41414141414141414141414141414100) [])) =
      (0x200#32, 16#32, bytes 16 0x41414141414141414141414141414100) ∧
    result (issue 0x00000041#32
      { given (bytes 16 0x41414141414141414141414141414100) [] with params := { textUnpadCorner := .pyslice } }) =
      (0x200#32, 0#32, []) ∧
    result (issue 0x00000041#32 (given (bytes 16 0x414141414141414141414141414141ff) [])) = (0x200#32, 0#32, []) := by
  decide +kernel

/-- LenRegRange, Capacity, Empty. -/
theorem test_unpadu_checks :
    statusOf (issue 0x00000041#32 (smallGiven (letters 33) [])) = 0x085#32 ∧
    statusOf (issue 0x00000041#32 (roomy 33 1)) = 0x035#32 ∧
    statusOf (issue 0x00000041#32 (roomy 32 1)) = 0x200#32 ∧
    statusOf (issue 0x00000041#32 State.reset) = 0x032#32 := by decide +kernel

/-- 95_test_vectors 2.5. -/
theorem test_unpadv :
    result (issue 0x00000042#32 (given (bytes 16 0x000102030405060708090a0b0c0d0e01) [])) =
      (0x200#32, 15#32, bytes 15 0x000102030405060708090a0b0c0d0e) ∧
    result (issue 0x00000042#32 (given (bytes 16 0x4142434445464748494a4b4c4d4e0703) [])) =
      (0x300#32, 16#32, bytes 16 0x4142434445464748494a4b4c4d4e0703) ∧
    result (issue 0x00000042#32 (given (bytes 3 0x030303) [])) = (0x200#32, 0#32, []) ∧
    result (issue 0x00000042#32 (given (bytes 3 0x050505) [])) = (0x300#32, 3#32, bytes 3 0x050505) ∧
    result (issue 0x00000042#32 (given [] [])) = (0x300#32, 0#32, []) := by decide +kernel

/-- LenRegRange, then Capacity. -/
theorem test_unpadv_checks :
    statusOf (issue 0x00000042#32 (smallGiven (letters 33) [])) = 0x085#32 ∧
    statusOf (issue 0x00000042#32 (roomy 33 1)) = 0x035#32 ∧
    statusOf (issue 0x00000042#32 (roomy 32 1)) = 0x300#32 := by decide +kernel

/-- 95_test_vectors 2.5. -/
theorem test_hexe :
    result (issue 0x00000043#32 (given (bytes 4 0x000fa0ff) [])) = (0x200#32, 8#32, bytes 8 0x3030306661306666) ∧
    result (issue 0x00000043#32 (given [] [])) = (0x200#32, 0#32, []) := by decide +kernel

/-- LenRegRange, then Capacity: 16 bytes need 32. -/
theorem test_hexe_checks :
    statusOf (issue 0x00000043#32 (smallGiven (letters 33) [])) = 0x085#32 ∧
    statusOf (issue 0x00000043#32 (smallGiven (letters 17) [])) = 0x035#32 ∧
    statusOf (issue 0x00000043#32 (smallGiven (letters 16) [])) = 0x200#32 := by decide +kernel

/-- 95_test_vectors 2.5: both cases of digits. -/
theorem test_hexd :
    result (issue 0x00000044#32 (given (bytes 8 0x3030304641304666) [])) = (0x200#32, 4#32, bytes 4 0x000fa0ff) ∧
    result (issue 0x00000044#32 (given [] [])) = (0x200#32, 0#32, []) := by decide +kernel

/-- LenRegRange, Capacity, HexMalformed (odd length, then a character that is no digit). -/
theorem test_hexd_checks :
    statusOf (issue 0x00000044#32 (smallGiven (letters 33) [])) = 0x085#32 ∧
    statusOf (issue 0x00000044#32 (roomy 66 1)) = 0x035#32 ∧
    statusOf (issue 0x00000044#32 (roomy 65 1)) = 0x012#32 ∧
    statusOf (issue 0x00000044#32 (roomy 64 1)) = 0x200#32 ∧
    statusOf (issue 0x00000044#32 (given (bytes 2 0x3067) [])) = 0x012#32 := by decide +kernel

/-- 95_test_vectors 2.5: the ends of the rows of the table, on both sides. -/
theorem test_u8chk :
    ([bytes 1 0x7f, bytes 2 0xc280, bytes 3 0xe0a080, bytes 3 0xed9fbf, bytes 3 0xee8080, bytes 4 0xf0908080,
        bytes 4 0xf48fbfbf].all utf8Valid) = true ∧
    ([bytes 1 0x80, bytes 2 0xc1bf, bytes 3 0xe08080, bytes 3 0xeda080, bytes 4 0xf0808080, bytes 4 0xf4908080,
        bytes 4 0xf5808080, bytes 2 0xe282].any utf8Valid) = false := by
  decide +kernel

/-- LenRegRange, then Utf8Invalid; success leaves the output as it was. -/
theorem test_u8chk_checks :
    statusOf (issue 0x00000045#32 (smallGiven (letters 33) [])) = 0x085#32 ∧
    statusOf (issue 0x00000045#32 (given (bytes 1 0xc3) [])) = 0x013#32 ∧
    result (issue 0x00000045#32 { given (bytes 3 0xe282ac) [] with obuf := [(0, 9#8)], olen := 1#32 }) =
      (0x200#32, 1#32, [9#8]) := by decide +kernel

/-- 95_test_vectors 2.5: the digest of testkey, cut to 16 and to 32 bytes. -/
theorem test_kdf :
    result (issue 0x00000046#32 (given [] (bytes 7 0x746573746b6579))) =
      (0x200#32, 16#32, bytes 16 0x98483c6eb40b6c31a448c22a66ded3b5) ∧
    result (issue 0x00000246#32 (given [] (bytes 7 0x746573746b6579))) =
      (0x200#32, 32#32, bytes 32 0x98483c6eb40b6c31a448c22a66ded3b5e5e8d5119cac8327b655c8b5c4836489) := by
  decide +kernel

/-- LenRegRange, KeySizeSelect, EmptyKey. -/
theorem test_kdf_checks :
    statusOf (issue 0x00000346#32 (smallGiven [] (letters 33))) = 0x085#32 ∧
    statusOf (issue 0x00000346#32 (smallGiven [] [])) = 0x051#32 ∧
    statusOf (issue 0x00000146#32 (smallGiven [] [])) = 0x021#32 ∧
    statusOf (issue 0x00000146#32 (smallGiven [] (letters 32))) = 0x200#32 := by decide +kernel

/-- 47_hash_port section 3: one chunk, the longest of one chunk, the shortest of two. -/
theorem test_sha256 :
    (sha256 []).toList = (bytes 32 0xe3b0c44298fc1c149afbf4c8996fb92427ae41e4649b934ca495991b7852b855) ∧
    (sha256 (letters 55)).toList = (bytes 32 0x9f4390f8d30c2dd92ec9f095b65e2b9ae9b0a925a5258e241c9f1e910f734318) ∧
    (sha256 (letters 56)).toList = (bytes 32 0xb35439a4ac6f0948b6d6f9e3c6af0f5f590ce20f1bde7090ef7970686ec6738a) := by
  decide +kernel

/-! ## The payload commands -/

/-- 95_test_vectors 2.5: the example of the source. -/
theorem test_aeste :
    result (issue 0x00000048#32 (given (bytes 3 0x414553) (bytes 7 0x746573746b6579))) =
      (0x200#32, 32#32, bytes 32 0x3136663137323034353730366166633535336133313233333065623066633036) := by
  decide +kernel

/-- LenRegRange (either register), Capacity, KeySizeSelect, EmptyKey: 15 bytes need 32, 16 need 64. -/
theorem test_aeste_checks :
    statusOf (issue 0x00000048#32 (smallGiven (letters 33) (letters 1))) = 0x085#32 ∧
    statusOf (issue 0x00000048#32 (smallGiven (letters 1) (letters 33))) = 0x085#32 ∧
    statusOf (issue 0x00000348#32 (smallGiven (letters 16) [])) = 0x035#32 ∧
    statusOf (issue 0x00000348#32 (smallGiven (letters 15) [])) = 0x051#32 ∧
    statusOf (issue 0x00000048#32 (smallGiven (letters 15) [])) = 0x021#32 ∧
    statusOf (issue 0x00000048#32 (smallGiven (letters 15) (letters 32))) = 0x200#32 := by decide +kernel

/-- 95_test_vectors P2: the text, and a wrong passphrase, which also ends the session. -/
theorem test_aestd :
    result (issue 0x00000049#32 (given (bytes 32
        0x3136663137323034353730366166633535336133313233333065623066633036) (bytes 7 0x746573746b6579))) =
      (0x200#32, 3#32, bytes 3 0x414553) ∧
    (let t := after (issue 0x00000049#32 (withKey .k128 (count 16) (given (bytes 32
        0x3136663137323034353730366166633535336133313233333065623066633036) (bytes 5 0x77726f6e67))))
     (t.status, t.olen, t.rkv) = (0x013#32, 0#32, false)) := by decide +kernel

/-- LenRegRange, Capacity, KeySizeSelect, EmptyKey, HexMalformed, Empty, Size; none ends the session. -/
theorem test_aestd_checks :
    statusOf (issue 0x00000049#32 (roomy 97 1)) = 0x085#32 ∧
    statusOf (issue 0x00000049#32 (roomy 66 1)) = 0x035#32 ∧
    statusOf (issue 0x00000349#32 (roomy 65 0)) = 0x051#32 ∧
    statusOf (issue 0x00000049#32 (roomy 65 0)) = 0x021#32 ∧
    statusOf (issue 0x00000049#32 (roomy 65 1)) = 0x012#32 ∧
    statusOf (issue 0x00000049#32 (smallGiven [] (letters 1))) = 0x032#32 ∧
    statusOf (issue 0x00000049#32 (roomy 34 1)) = 0x022#32 ∧
    statusOf (issue 0x00000049#32 (roomy 30 1)) = 0x022#32 ∧
    (after (issue 0x00000049#32 (withKey .k128 (count 16) (given (bytes 2 0x3030) (bytes 7
        0x746573746b6579))))).rkv = true := by
  decide +kernel

/-- 95_test_vectors 2.5: an incomplete block is padded, and with FILE_FULLBLOCK_PAD = 1 a whole one too. -/
theorem test_aesfe :
    result (issue 0x0000004A#32 (given (bytes 3 0x414553) (bytes 7 0x746573746b6579))) =
      (0x200#32, 16#32, bytes 16 0x16f172045706afc553a312330eb0fc06) ∧
    result (issue 0x0000004A#32 { given [] (bytes 7 0x746573746b6579) with params := { fileFullblockPad := true } }) =
      (0x200#32, 16#32, bytes 16 0x448e7336ffb332c7bfae1812e2808db8) := by decide +kernel

/-- LenRegRange, Capacity, KeySizeSelect, EmptyKey: 32 bytes need 32, or 48 with FILE_FULLBLOCK_PAD = 1. -/
theorem test_aesfe_checks :
    statusOf (issue 0x0000004A#32 (smallGiven (letters 33) (letters 1))) = 0x085#32 ∧
    statusOf (issue 0x0000034A#32
      { smallGiven (letters 32) [] with params := { small with fileFullblockPad := true } }) = 0x035#32 ∧
    statusOf (issue 0x0000034A#32 (smallGiven (letters 32) [])) = 0x051#32 ∧
    statusOf (issue 0x0000004A#32 (smallGiven (letters 32) [])) = 0x021#32 ∧
    statusOf (issue 0x0000004A#32 (smallGiven (letters 32) (letters 1))) = 0x200#32 ∧
    statusOf (issue 0x0000004A#32 (roomy 33 1)) = 0x035#32 := by decide +kernel

/-- 95_test_vectors 2.5 and P3: a valid padding. -/
theorem test_aesfd :
    result (issue 0x0000004B#32 (given (bytes 16 0x16f172045706afc553a312330eb0fc06) (bytes 7 0x746573746b6579))) =
      (0x200#32, 3#32, bytes 3 0x414553) := by
  decide +kernel

/-- LenRegRange, Capacity, KeySizeSelect, EmptyKey, Size; a last block that is no padding warns. -/
theorem test_aesfd_checks :
    statusOf (issue 0x0000004B#32 (roomy 97 1)) = 0x085#32 ∧
    statusOf (issue 0x0000004B#32 (roomy 33 1)) = 0x035#32 ∧
    statusOf (issue 0x0000034B#32 (roomy 31 0)) = 0x051#32 ∧
    statusOf (issue 0x0000004B#32 (roomy 31 0)) = 0x021#32 ∧
    statusOf (issue 0x0000004B#32 (roomy 31 1)) = 0x022#32 ∧
    statusOf (issue 0x0000004B#32 (roomy 32 1)) = 0x300#32 := by decide +kernel

/-! ## The legacy engines -/

/-- 95_test_vectors 1.1 and 2.6: the example of the source, and the bytes beside the letter ranges. -/
theorem test_caese :
    result (issue 0x00030050#32 (given (bytes 13 0x48656c6c6f2c20576f726c6421) [])) =
      (0x200#32, 13#32, bytes 13 0x4b686f6f722c205a72756f6721) ∧
    result (issue 0x00030050#32 (given (bytes 10 0x40415a5b60617a7b00ff) [])) =
      (0x200#32, 10#32, bytes 10 0x4044435b6064637b00ff) := by
  decide +kernel

/-- 95_test_vectors 2.6. -/
theorem test_caesd :
    result (issue 0x00030051#32 (given (bytes 13 0x4b686f6f722c205a72756f6721) [])) =
      (0x200#32, 13#32, bytes 13 0x48656c6c6f2c20576f726c6421) ∧
    result (issue 0x00010051#32 (given (bytes 7 0x61626320414243) [])) =
      (0x200#32, 7#32, bytes 7 0x7a6162205a4142) := by
  decide +kernel

/-- LenRegRange, Capacity, ShiftRange at both ends of 1 to 25. -/
theorem test_caese_checks :
    statusOf (issue 0x00000050#32 (smallGiven (letters 33) [])) = 0x085#32 ∧
    statusOf (issue 0x00000050#32 (roomy 33 1)) = 0x035#32 ∧
    statusOf (issue 0x00000050#32 (roomy 32 1)) = 0x031#32 ∧
    statusOf (issue 0x001A0050#32 (roomy 32 1)) = 0x031#32 ∧
    statusOf (issue 0x00010050#32 (roomy 32 1)) = 0x200#32 ∧
    statusOf (issue 0x00190050#32 (roomy 32 1)) = 0x200#32 := by decide +kernel

/-- LenRegRange, Capacity, ShiftRange at both ends of 1 to 25. -/
theorem test_caesd_checks :
    statusOf (issue 0x00000051#32 (smallGiven (letters 33) [])) = 0x085#32 ∧
    statusOf (issue 0x00000051#32 (roomy 33 1)) = 0x035#32 ∧
    statusOf (issue 0x00000051#32 (roomy 32 1)) = 0x031#32 ∧
    statusOf (issue 0x001A0051#32 (roomy 32 1)) = 0x031#32 ∧
    statusOf (issue 0x00010051#32 (roomy 32 1)) = 0x200#32 ∧
    statusOf (issue 0x00190051#32 (roomy 32 1)) = 0x200#32 := by decide +kernel

/-- 95_test_vectors 2.6. -/
theorem test_vkcln :
    result (issue 0x00000052#32 (given [] (bytes 6 0x616263313233))) = (0x200#32, 3#32, bytes 3 0x414243) ∧
    result (issue 0x00000052#32 (given [] (bytes 7 0x4c65204d6f6e21))) = (0x200#32, 5#32, bytes 5 0x4c454d4f4e) := by
  decide +kernel

/-- LenRegRange, then EmptyVigenereKey. -/
theorem test_vkcln_checks :
    statusOf (issue 0x00000052#32 (smallGiven [] (letters 33))) = 0x085#32 ∧
    statusOf (issue 0x00000052#32 (given [] (bytes 3 0x313233))) = 0x041#32 ∧
    statusOf (issue 0x00000052#32 State.reset) = 0x041#32 ∧
    statusOf (issue 0x00000052#32 (smallGiven [] (letters 32))) = 0x200#32 := by decide +kernel

/-- 95_test_vectors 2.6: the cursor does not advance on the spaces. -/
theorem test_vigte :
    result (issue 0x00000054#32 (given (bytes 15 0x41747461636b206174206461776e21) (bytes 5 0x6c656d6f6e))) =
      (0x200#32, 15#32, bytes 15 0x4c78666f707620656620726e687221) ∧
    result (issue 0x00000054#32 (given (bytes 2 0x7a5a) (bytes 2 0x6262))) = (0x200#32, 2#32, bytes 2 0x6141) := by
  decide +kernel

/-- 95_test_vectors 2.6. -/
theorem test_vigtd :
    result (issue 0x00000055#32 (given (bytes 15 0x4c78666f707620656620726e687221) (bytes 5 0x6c656d6f6e))) =
      (0x200#32, 15#32, bytes 15 0x41747461636b206174206461776e21) ∧
    result (issue 0x00000055#32 (given (bytes 2 0x6141) (bytes 2 0x6262))) = (0x200#32, 2#32, bytes 2 0x7a5a) := by
  decide +kernel

/-- 95_test_vectors 2.6: every byte moves, modulo 256. -/
theorem test_vigbe :
    result (issue 0x00000056#32 (given (bytes 6 0x0001feff412c) (bytes 6 0x616263313233))) =
      (0x200#32, 6#32, bytes 6 0x000200ff422e) ∧
    result (issue 0x00000056#32 (given (bytes 13 0x48656c6c6f2c20576f726c6421) (bytes 3 0x616263))) =
      (0x200#32, 13#32, bytes 13 0x48666e6c702e205871726d6621) := by
  decide +kernel

/-- 95_test_vectors 2.6. -/
theorem test_vigbd :
    result (issue 0x00000057#32 (given (bytes 6 0x000200ff422e) (bytes 6 0x616263313233))) =
      (0x200#32, 6#32, bytes 6 0x0001feff412c) ∧
    result (issue 0x00000057#32 (given (bytes 5 0x1818181818) (bytes 2 0x5a7a))) =
      (0x200#32, 5#32, bytes 5 0xffffffffff) := by
  decide +kernel

/-- LenRegRange (either register), Capacity, EmptyVigenereKey. -/
theorem test_vigte_checks :
    statusOf (issue 0x00000054#32 (smallGiven (letters 33) (letters 1))) = 0x085#32 ∧
    statusOf (issue 0x00000054#32 (smallGiven [] (letters 33))) = 0x085#32 ∧
    statusOf (issue 0x00000054#32 (roomy 33 1)) = 0x035#32 ∧
    statusOf (issue 0x00000054#32 (smallGiven (letters 32) [])) = 0x041#32 ∧
    statusOf (issue 0x00000054#32 (roomy 32 1)) = 0x200#32 := by decide +kernel

/-- LenRegRange (either register), Capacity, EmptyVigenereKey. -/
theorem test_vigtd_checks :
    statusOf (issue 0x00000055#32 (smallGiven (letters 33) (letters 1))) = 0x085#32 ∧
    statusOf (issue 0x00000055#32 (smallGiven [] (letters 33))) = 0x085#32 ∧
    statusOf (issue 0x00000055#32 (roomy 33 1)) = 0x035#32 ∧
    statusOf (issue 0x00000055#32 (smallGiven (letters 32) [])) = 0x041#32 ∧
    statusOf (issue 0x00000055#32 (roomy 32 1)) = 0x200#32 := by decide +kernel

/-- LenRegRange (either register), Capacity, EmptyVigenereKey. -/
theorem test_vigbe_checks :
    statusOf (issue 0x00000056#32 (smallGiven (letters 33) (letters 1))) = 0x085#32 ∧
    statusOf (issue 0x00000056#32 (smallGiven [] (letters 33))) = 0x085#32 ∧
    statusOf (issue 0x00000056#32 (roomy 33 1)) = 0x035#32 ∧
    statusOf (issue 0x00000056#32 (smallGiven (letters 32) [])) = 0x041#32 ∧
    statusOf (issue 0x00000056#32 (roomy 32 1)) = 0x200#32 := by decide +kernel

/-- LenRegRange (either register), Capacity, EmptyVigenereKey. -/
theorem test_vigbd_checks :
    statusOf (issue 0x00000057#32 (smallGiven (letters 33) (letters 1))) = 0x085#32 ∧
    statusOf (issue 0x00000057#32 (smallGiven [] (letters 33))) = 0x085#32 ∧
    statusOf (issue 0x00000057#32 (roomy 33 1)) = 0x035#32 ∧
    statusOf (issue 0x00000057#32 (smallGiven (letters 32) [])) = 0x041#32 ∧
    statusOf (issue 0x00000057#32 (roomy 32 1)) = 0x200#32 := by decide +kernel

/-- 95_test_vectors 2.7: 33 bytes, so two digests; IBUF is not read. -/
theorem test_ksgen :
    result (issue 0x00000060#32 { given [] (bytes 4 0x73656564) with ilen := 33#32 }) =
      (0x200#32, 33#32, bytes 33 0x336f28a022193939585a1b4edc989f870917f3a5f6ddd16e4fb357084a6bdfc273) ∧
    (after (issue 0x00000060#32 { given [] (bytes 4 0x73656564) with ilen := 0#32 })).olen = 0#32 := by decide +kernel

/-- 95_test_vectors 2.7. -/
theorem test_kste :
    result (issue 0x00000061#32 (given (bytes 5 0x48656c6c6f) (bytes 4 0x73656564))) =
      (0x200#32, 10#32, bytes 10 0x37623061343463633464) ∧
    result (issue 0x00000061#32 (given [] (bytes 4 0x73656564))) = (0x200#32, 0#32, []) := by decide +kernel

/-- 95_test_vectors 2.7. -/
theorem test_kstd :
    result (issue 0x00000062#32 (given (bytes 10 0x37423041343443433444) (bytes 4 0x73656564))) =
      (0x200#32, 5#32, bytes 5 0x48656c6c6f) ∧
    result (issue 0x00000062#32 (given [] (bytes 4 0x73656564))) = (0x200#32, 0#32, []) := by decide +kernel

/-- 95_test_vectors 2.7: the XOR with zeros shows the keystream. -/
theorem test_ksb :
    result (issue 0x00000063#32 (given (bytes 8 0x0000000000000000) (bytes 4 0x73656564))) =
      (0x200#32, 8#32, bytes 8 0x336f28a022193939) := by
  decide +kernel

/-- LenRegRange (either register), Capacity, EmptyKey. -/
theorem test_ksgen_checks :
    statusOf (issue 0x00000060#32 (smallGiven (letters 33) (letters 1))) = 0x085#32 ∧
    statusOf (issue 0x00000060#32 (smallGiven [] (letters 33))) = 0x085#32 ∧
    statusOf (issue 0x00000060#32 (roomy 33 1)) = 0x035#32 ∧
    statusOf (issue 0x00000060#32 (smallGiven (letters 32) [])) = 0x021#32 ∧
    statusOf (issue 0x00000060#32 (smallGiven (letters 32) (letters 1))) = 0x200#32 := by decide +kernel

/-- The same, 16 bytes needing 32. -/
theorem test_kste_checks :
    statusOf (issue 0x00000061#32 (smallGiven (letters 33) (letters 1))) = 0x085#32 ∧
    statusOf (issue 0x00000061#32 (smallGiven (letters 17) [])) = 0x035#32 ∧
    statusOf (issue 0x00000061#32 (smallGiven (letters 16) [])) = 0x021#32 ∧
    statusOf (issue 0x00000061#32 (smallGiven (letters 16) (letters 1))) = 0x200#32 := by decide +kernel

/-- LenRegRange, Capacity, EmptyKey, HexMalformed, Utf8Invalid (95_test_vectors 2.7). -/
theorem test_kstd_checks :
    statusOf (issue 0x00000062#32 (roomy 97 1)) = 0x085#32 ∧
    statusOf (issue 0x00000062#32 (roomy 66 0)) = 0x035#32 ∧
    statusOf (issue 0x00000062#32 (roomy 65 0)) = 0x021#32 ∧
    statusOf (issue 0x00000062#32 (roomy 65 1)) = 0x012#32 ∧
    statusOf (issue 0x00000062#32 (given (bytes 2 0x6233) (bytes 4 0x73656564))) = 0x013#32 ∧
    statusOf (issue 0x00000062#32 (given (bytes 4 0x66666666) (bytes 4 0x73656564))) = 0x200#32 := by decide +kernel

/-- LenRegRange, Capacity, EmptyKey. -/
theorem test_ksb_checks :
    statusOf (issue 0x00000063#32 (smallGiven (letters 33) (letters 1))) = 0x085#32 ∧
    statusOf (issue 0x00000063#32 (roomy 33 1)) = 0x035#32 ∧
    statusOf (issue 0x00000063#32 (smallGiven (letters 32) [])) = 0x021#32 ∧
    statusOf (issue 0x00000063#32 (smallGiven (letters 32) (letters 1))) = 0x200#32 := by decide +kernel

/-- 95_test_vectors 2.7: the window ends before index 1024; 0x7F does not count. -/
theorem test_sniff :
    sniff (letters 1024 ++ [0#8]) = false ∧
    sniff (letters 1023 ++ [0#8]) = true ∧
    sniff [0x7F#8] = false ∧
    sniff [0x80#8] = true ∧
    (after (issue 0x00000064#32 (given [0xC3#8] []))).res = 1#8 ∧
    (after (issue 0x00000064#32 { given [] [] with res := 0xC1#8 })).res = 0#8 := by decide +kernel

/-- LenRegRange. -/
theorem test_sniff_checks :
    statusOf (issue 0x00000064#32 (smallGiven (letters 33) [])) = 0x085#32 ∧
    statusOf (issue 0x00000064#32 (smallGiven (letters 32) [])) = 0x200#32 := by decide +kernel

/-! ## Witnesses: states and operands that meet the hypotheses of the statements -/

/-- A session open with a block in STATE, an output, a warning reported, and the least capacities. -/
def busy : State :=
  { withState (count 16) (withKey .k256 (count 32) (smallGiven (letters 32) (letters 32))) with
    res := 0xC1#8
    obuf := [(0, 1#8), (1, 2#8)]
    olen := 2#32
    status := 0x300#32
    inbox := [.writeReg 0 0x00000010#32, .reset]
    reply := some (.byte 7#8)
    bufGen := 3
    outGen := 5 }

/-- A state other than reset that meets the invariant. -/
theorem busy_inv : State.Inv busy where
  ibuf_wf := by decide +kernel
  ibuf_below := by decide +kernel
  kbuf_wf := by decide +kernel
  kbuf_below := by decide +kernel
  obuf_wf := by decide +kernel
  obuf_keys := by decide +kernel
  olen_cap := by decide +kernel
  schedule_length := by
    intro sch h
    obtain rfl : scheduleOf .k256 (count 32) = sch := Option.some.inj h
    decide +kernel
  status_legal := by decide +kernel
  error_empties := by intro h; exact absurd (by decide +kernel) h
  params_valid := by decide +kernel

theorem witness_EncodeOfDecodeIsTheWord : decode 0x00CA5301#32 = .ok (.gfmul 0x53 0xCA) := by decide +kernel

/-- Both ends of every range of R99, and of the legal opcodes between them. -/
theorem witness_IllegalOpcodeReportsBadOpcode :
    [0x00, 0x02, 0x0F, 0x19, 0x1F, 0x23, 0x2F, 0x32, 0x3F, 0x47, 0x4C, 0x4F, 0x53, 0x58, 0x5F, 0x65, 0xFF].all
      illegalOpcode = true ∧
    [0x01, 0x10, 0x18, 0x20, 0x22, 0x30, 0x31, 0x40, 0x46, 0x48, 0x4B, 0x50, 0x52, 0x54, 0x57, 0x60, 0x64].any
      illegalOpcode = false ∧
    illegalOpcode ((0xFFFFFF47#32 : Word32).toNat % 256) = true := by decide +kernel

theorem witness_ReservedBitReportsReservedBits :
    (opcField 0x00000112#32 = Instr.opcode .subb ∧ 0x00000112#32 &&& reservedBitsOf (Instr.format .subb) ≠ 0) ∧
    (opcField 0x001A0050#32 = Instr.opcode (.caese 0) ∧
      0x001A0050#32 &&& reservedBitsOf (Instr.format (.caese 0)) = 0) ∧
    Instr.wellFormed (.caesd 26) = false ∧ Instr.wellFormed (.rdrk 15) = false ∧
    Instr.wellFormed (.aesfd 3) = false := by decide +kernel

theorem witness_FieldsAreUnsignedBits :
    decode 0x0083FF01#32 = .ok (.gfmul 0xFF 0x83) ∧ decode 0x000F0018#32 = .ok (.ark 15) ∧
    decode 0x00000022#32 = .ok (.rdrk 0) ∧ decode 0x00000320#32 = .ok (.kexp 3) ∧
    decode 0x00000046#32 = .ok (.kdf 0) ∧ decode 0x00000148#32 = .ok (.aeste 1) ∧
    decode 0x00000249#32 = .ok (.aestd 2) ∧ decode 0x0000034A#32 = .ok (.aesfe 3) ∧
    decode 0x0000004B#32 = .ok (.aesfd 0) ∧ decode 0x00FF0050#32 = .ok (.caese 0xFF) ∧
    decode 0x00010051#32 = .ok (.caesd 1) := by decide +kernel

/-- IllegalFieldsAreRefused, KS: lengths and need at their bounds (15 bytes of text need 32). -/
theorem witness_IllegalFieldsAreRefused_keySize :
    let s := smallGiven (letters 15) (letters 32)
    Instr.aeste 3 ∈ [Instr.kexp 3, .kdf 3, .aeste 3, .aestd 3, .aesfe 3, .aesfd 3] ∧
    s.n ≤ s.params.ibufCap ∧ s.kn ≤ s.params.kbufCap ∧
    ∀ need, needOf s.params s.n (.aeste 3) = some need → need ≤ s.params.obufCap := by
  refine ⟨by decide +kernel, by decide +kernel, by decide +kernel, ?_⟩
  rintro need h
  obtain rfl : (32 : Nat) = need := Option.some.inj ((by decide +kernel : some 32 = needOf _ _ _).trans h)
  decide +kernel

/-- IllegalFieldsAreRefused, RIDX one above N, and SHIFT at 0 and 26. -/
theorem witness_IllegalFieldsAreRefused_others :
    busy.stv = true ∧ busy.rk = some (scheduleOf .k256 (count 32)) ∧
    (scheduleOf .k256 (count 32)).size.rounds < (15 : BitVec 4).toNat ∧
    ¬ (1 ≤ (0 : Byte).toNat ∧ (0 : Byte).toNat ≤ 25) ∧ ¬ (1 ≤ (26 : Byte).toNat ∧ (26 : Byte).toNat ≤ 25) ∧
    busy.n ≤ busy.params.ibufCap ∧ busy.n ≤ busy.params.obufCap := by decide +kernel

theorem witness_StepRunsTheDecodedCommand :
    busy.inbox = .writeReg 0 0x00000010#32 :: [.reset] ∧ decode 0x00000010#32 = .ok .ldst ∧
    decodeTableWord 8 0x00000012 = some .subb ∧ State.reset.inbox = [] := by decide +kernel

/-- A step that has no next state is told apart by `statusOf`. -/
theorem next_after (o : Out) (h : statusOf o ≠ 0xFFFFFFFF#32) : o = .next (after o) := by
  cases o with
  | next t => rfl
  | fault r => exact absurd rfl h
  | refused r => exact absurd rfl h

theorem witness_StepKeepsTheInvariant : State.Inv busy ∧ step busy = .next (after (step busy)) :=
  ⟨busy_inv, next_after _ (by decide +kernel)⟩

theorem witness_EveryRunIsSafe : State.Inv busy := busy_inv

theorem witness_ResetLeavesTheSpecsValues :
    let s := { busy with inbox := [.reset] }
    s.inbox = .reset :: [] ∧ step s = .next (after (step s)) := ⟨rfl, rfl⟩

/-- Every kind of action, at the ends of the register numbers. -/
theorem witness_HostReachesRegistersByNumber :
    ({ busy with inbox := [.readReg 5] } : State).inbox = .readReg 5 :: [] ∧
    ({ busy with inbox := [.readReg 6] } : State).inbox = .readReg 6 :: [] ∧
    ({ busy with inbox := [.writeReg 0 0x11#32] } : State).inbox = .writeReg 0 0x11#32 :: [] ∧
    ({ busy with inbox := [.writeReg 2 0xFFFFFFFF#32] } : State).inbox = .writeReg 2 0xFFFFFFFF#32 :: [] ∧
    ({ busy with inbox := [.writeReg 3 33#32] } : State).inbox = .writeReg 3 33#32 :: [] ∧
    (({ busy with inbox := [.writeReg 6 1#32] } : State).inbox = .writeReg 6 1#32 :: [] ∧
      (6 = 1 ∨ 6 = 4 ∨ 6 = 5 ∨ 6 ≤ 6)) := by decide +kernel

theorem witness_HostReachesRegistersByNumber_reserved : State.Inv busy := busy_inv

/-- One below the capacity, and at it. -/
theorem witness_HostReachesBuffersByIndex :
    (({ busy with inbox := [.readBuf .obuf 31] } : State).inbox = .readBuf .obuf 31 :: [] ∧ 31 < busy.cap .obuf) ∧
    (({ busy with inbox := [.readBuf .kbuf 32] } : State).inbox = .readBuf .kbuf 32 :: [] ∧ busy.cap .kbuf ≤ 32) ∧
    (({ busy with inbox := [.writeBuf .ibuf 31 9#8] } : State).inbox = .writeBuf .ibuf 31 9#8 :: [] ∧
      31 < busy.params.ibufCap) ∧
    (({ busy with inbox := [.writeBuf .kbuf 0 9#8] } : State).inbox = .writeBuf .kbuf 0 9#8 :: [] ∧
      0 < busy.params.kbufCap) ∧
    (({ busy with inbox := [.writeBuf .kbuf 32 9#8] } : State).inbox = .writeBuf .kbuf 32 9#8 :: [] ∧
      busy.params.kbufCap ≤ 32) ∧
    (6 ≤ 6 ∧ ({ busy with inbox := [.readReg 6] } : State).inbox = .readReg 6 :: [] ∧
      ({ busy with inbox := [.writeReg 6 1#32] } : State).inbox = .writeReg 6 1#32 :: []) := by decide +kernel

/-- Payloads as long as the capacity, an empty one, and an output of two bytes. -/
theorem witness_DirectivesLoadPayloads :
    busy.params.Valid ∧
    (({ busy with inbox := ibufDirective (letters 32) ++ [.reset] } : State).inbox =
      ibufDirective (letters 32) ++ [.reset] ∧ (letters 32).length ≤ busy.params.ibufCap) ∧
    (({ busy with inbox := kbufDirective [] } : State).inbox = kbufDirective [] ++ [] ∧
      ([] : List Byte).length ≤ busy.params.kbufCap) ∧
    ({ busy with inbox := ilenDirective 5#32 } : State).inbox = ilenDirective 5#32 ++ [] ∧
    ({ busy with inbox := klenDirective 5#32 } : State).inbox = klenDirective 5#32 ++ [] ∧
    (({ busy with inbox := xferDirective busy } : State).inbox =
        xferDirective { busy with inbox := xferDirective busy } ++ [] ∧
      busy.olen.toNat ≤ busy.params.ibufCap) := by decide +kernel

/-- Two states that differ in stale bytes, in STATUS, in the actions to come and in the counters. -/
theorem witness_StaleBytesNeverMatter :
    let s := given [1#8, 2#8] [3#8]
    let s' := { given [1#8, 2#8, 9#8] [3#8, 8#8] with
      ilen := 2#32, klen := 1#32, status := 0x200#32, inbox := [.reset], bufGen := 7, outGen := 8 }
    s.ilen = s'.ilen ∧ s.input = s'.input ∧ s.klen = s'.klen ∧ s.key = s'.key ∧ s'.aesState = s.aesState ∧
      s'.rk = s.rk ∧ s.res = s'.res ∧ s.olen = s'.olen ∧ s.output = s'.output ∧ s.params = s'.params ∧ s ≠ s' := by
  decide +kernel

theorem witness_CoreAndHostOwnTheirState :
    ((∀ v, HostAction.writeReg 2 7#32 ≠ .writeReg 0 v) ∧ HostAction.writeReg 2 7#32 ≠ .reset) ∧
    ((∀ v, HostAction.readReg 1 ≠ .writeReg 0 v) ∧ HostAction.readReg 1 ≠ .reset) ∧
    ((∀ v, HostAction.writeBuf .kbuf 0 1#8 ≠ .writeReg 0 v) ∧ HostAction.writeBuf .kbuf 0 1#8 ≠ .reset) ∧
    ((∀ v, HostAction.readBuf .obuf 0 ≠ .writeReg 0 v) ∧ HostAction.readBuf .obuf 0 ≠ .reset) := by simp

theorem witness_OnlyGfmulAndSniffWriteRes :
    ((∀ a b, Instr.subb ≠ .gfmul a b) ∧ Instr.subb ≠ .sniff) ∧ busy.n ≤ busy.params.ibufCap ∧
    ((∀ v, HostAction.readReg 5 ≠ .writeReg 0 v) ∧ HostAction.readReg 5 ≠ .reset) := by
  refine ⟨by simp, by decide +kernel, by simp⟩

/-- Each register one above its capacity, and at it. -/
theorem witness_LengthRegistersAreCheckedFirst :
    (readsInput .encb = true ∧ ({ busy with ilen := 33#32 } : State).ilen.toNat > busy.params.ibufCap) ∧
    (readsKey (.kdf 0) = true ∧ ({ busy with klen := 33#32 } : State).klen.toNat > busy.params.kbufCap) ∧
    (busy.ilen.toNat ≤ busy.params.ibufCap ∧ busy.klen.toNat ≤ busy.params.kbufCap) ∧
    (readsInput (.rdrk 0) = false ∧ readsKey (.rdrk 0) = false) := by decide +kernel

theorem witness_CapacityIsCheckedByNeed :
    (needOf small 17 .hexe = some 34 ∧ 34 > small.obufCap ∧ 17 ≤ small.ibufCap) ∧
    (needOf small 16 .kste = some 32 ∧ 32 ≤ small.obufCap ∧ readsKey .kste = true ∧ busy.kn ≤ small.kbufCap) ∧
    (busy.params.Valid ∧ smallNeedOf busy.kn .vkcln = some 32 ∧ smallNeedOf busy.kn (.kdf 1) = some 24) ∧
    needOf small 16 .stst = none ∧ noOutput .subb = true ∧ State.reset.params = {} := by decide +kernel

theorem witness_SessionBitsFollowTheCommands :
    (mayChangeState .stst = false ∧ mayChangeSchedule .encb = false) ∧
    (after (exec .ldst (given (count 16) []))).okFlag = true ∧
    (State.reset.stv = false ∧ busy.stv = true) ∧
    (State.reset.rkv = false ∧ State.reset.n ≤ State.reset.params.ibufCap) ∧
    ((withState (count 16) State.reset).rkv = false ∧ (withState (count 16) State.reset).stv = true) := by
  decide +kernel

theorem witness_GfmulWritesTheProduct :
    opcField 0x01835701#32 = 0x01#8 ∧ (0x01835701#32 : Word32).extractLsb' 24 8 ≠ 0 := by decide +kernel

theorem witness_GmulIsAFieldProduct : (0x53#8 : Byte) ≠ 0#8 ∧ gmul 0x53#8 0xCA#8 = 1#8 := by decide +kernel

/-- Every pair of the list, with a block in STATE; the last round key of the schedule. -/
theorem witness_TransformPairsUndoEachOther :
    busy.aesState = some (toState (count 16)) ∧
    (Instr.imixc, Instr.mixc) ∈ [(Instr.subb, Instr.isubb), (.isubb, .subb), (.shrow, .ishrow), (.ishrow, .shrow),
      (.mixc, .imixc), (.imixc, .mixc)] ∧
    busy.rk = some (scheduleOf .k256 (count 32)) ∧ (14 : BitVec 4).toNat ≤ (scheduleOf .k256 (count 32)).size.rounds ∧
    busy.stv = true := by decide +kernel

/-- The first and last index of each clause: 128 bits up to 43, 192 from 6, 256 at 12 and 13. -/
theorem witness_KeyExpansionFollowsTheRecurrence :
    ((count 16).length = KeySize.k128.bytes ∧ 3 < KeySize.k128.bytes / 4 ∧ KeySize.k128.bytes / 4 ≤ 43 ∧
      43 < 4 * (KeySize.k128.rounds + 1) ∧ 43 % (KeySize.k128.bytes / 4) ≠ 0 ∧ 4 % (KeySize.k128.bytes / 4) = 0) ∧
    ((count 24).length = KeySize.k192.bytes ∧ KeySize.k192.bytes / 4 ≤ 6 ∧ 6 % (KeySize.k192.bytes / 4) = 0) ∧
    ((count 32).length = KeySize.k256.bytes ∧ KeySize.k256.bytes / 4 ≤ 12 ∧ KeySize.k256.bytes / 4 = 8 ∧ 12 % 8 = 4 ∧
      12 % (KeySize.k256.bytes / 4) ≠ 0 ∧ ¬ (KeySize.k256.bytes / 4 = 8 ∧ 13 % 8 = 4)) := by decide +kernel

theorem witness_BlockCommandsEqualTheirRoundSequences :
    let s := withKey .k192 (count 24) (given (count 16) [])
    s.rk = some (scheduleOf .k192 (count 24)) ∧ s.n = 16 ∧ s.n ≤ s.params.ibufCap := by decide +kernel

theorem witness_BlockFunctionsUndoEachOther : (count 16).length = 16 := by decide +kernel

theorem witness_Sha256FollowsItsDefinition :
    let primes := (List.range 312).filter fun n => decide (2 ≤ n ∧ ∀ d, d < n → 2 ≤ d → n % d ≠ 0)
    (primes[0]? = some 2 ∧ Sha256.roundConstants[0]? = some 0x428a2f98#32 ∧ primes[7]? = some 19) ∧
    8 * (letters 55).length < 2 ^ 64 ∧
    ((count 8)[4]? = some 4#8 ∧ (count 8)[5]? = some 5#8 ∧ (count 8)[6]? = some 6#8 ∧ (count 8)[7]? = some 7#8) ∧
    (List.replicate 16 0#32).length = 16 ∧ 0 < (Sha256.padMessage []).length / 64 := by decide +kernel

theorem witness_PaddingAndStripFunctions :
    (count 13 ++ [3#8, 3#8, 3#8] = count 13 ++ List.replicate (3#8).toNat 3#8 ∧ 1 ≤ (3#8).toNat ∧ (3#8).toNat ≤ 16) ∧
    ¬ EndsInPadding [5#8, 5#8, 5#8] ∧ 1 ≤ (0xFF#8).toNat ∧ (0#8).toNat = 0 := by
  refine ⟨by decide +kernel, ?_, by decide +kernel, by decide +kernel⟩
  unfold EndsInPadding
  decide +kernel

/-- No digit but the twenty-two. -/
theorem not_isDigit (ch : Byte) (h : ch ∉ hexDigits ++ upperHexDigits) (v : Nat) : ¬ IsDigit ch v := by
  rintro (hv | ⟨_, hv⟩)
  · exact h (List.mem_append_left _ (List.mem_of_getElem? hv))
  · exact h (List.mem_append_right _ (List.mem_of_getElem? hv))

/-- The neighbours of the digits' ranges are no digits. -/
theorem witness_HexadecimalFunctions :
    ([0x61#8] : List Byte).length % 2 ≠ 0 ∧
    (([0x30#8, 0x67#8] : List Byte)[1]? = some 0x67#8 ∧ ∀ v, ¬ IsDigit 0x67#8 v) ∧
    (([0x39#8, 0x46#8] : List Byte).length % 2 = 0 ∧ ∀ ch ∈ ([0x39#8, 0x46#8] : List Byte), ∃ v, IsDigit ch v) ∧
    (IsDigit 0x39#8 9 ∧ IsDigit 0x46#8 15 ∧ IsDigit 0x66#8 15) := by
  have h9 : IsDigit 0x39#8 9 := .inl (by decide)
  have hF : IsDigit 0x46#8 15 := .inr (by decide)
  refine ⟨by decide, ⟨by decide, not_isDigit _ (by decide)⟩, ⟨by decide, ?_⟩, h9, hF, .inl (by decide)⟩
  intro ch h
  simp only [List.mem_cons, List.not_mem_nil, or_false] at h
  rcases h with rfl | rfl
  · exact ⟨9, h9⟩
  · exact ⟨15, hF⟩

theorem witness_KdfDeliversTheDerivedKey : 31 < KeySize.k256.bytes := by decide

theorem witness_PayloadsRunBlockByBlock : (count 32).length % 16 = 0 ∧ 1 < (count 32).length / 16 := by decide +kernel

/-- AESTE of 15 letters at the bound of OBUF, its output as the payload of AESTD, and a payload that is no UTF-8. -/
theorem witness_TextRoundTrip :
    let s := smallGiven (letters 15) (letters 32)
    let t := after (exec (.aeste 2) s)
    let s' := smallGiven t.output (letters 32)
    s.params.Valid ∧ (2 : BitVec 2) ≠ 3 ∧ 1 ≤ s.kn ∧ s.kn ≤ s.params.kbufCap ∧ s.n ≤ s.params.ibufCap ∧
      2 * (s.n + 16 - s.n % 16) ≤ s.params.obufCap ∧ s'.params = s.params ∧ s'.n ≤ s.params.ibufCap ∧
      s'.input = t.output ∧ s'.key = s.key ∧ utf8Valid s.input = true ∧
      utf8Valid (smallGiven [0xFF#8] (letters 1)).input = false := by decide +kernel

/-- A last block of the file that looks like padding, and one that does not. -/
theorem witness_FileRoundTrip :
    let s := smallGiven (letters 16) (letters 1)
    let t := after (exec (.aesfe 0) s)
    let s' := smallGiven t.output (letters 1)
    (s.params.Valid ∧ (0 : BitVec 2) ≠ 3 ∧ 1 ≤ s.kn ∧ s.kn ≤ s.params.kbufCap ∧ s.n ≤ s.params.ibufCap ∧
      (padFile s.params.fileFullblockPad s.input).length ≤ s.params.obufCap ∧ s'.params = s.params ∧
      s'.n ≤ s.params.ibufCap ∧ s'.input = t.output ∧ s'.key = s.key) ∧
    (s.n % 16 = 0 ∧ s.params.fileFullblockPad = false ∧ ¬ EndsInPadding s.input) ∧
    EndsInPadding (smallGiven (letters 15 ++ [1#8]) (letters 1)).input ∧
    (smallGiven (letters 15) (letters 1)).n % 16 ≠ 0 ∧
    ({ small with fileFullblockPad := true } : Params).Valid := by
  refine ⟨by decide +kernel, ⟨by decide +kernel, by decide +kernel, ?_⟩, ?_, by decide +kernel, by decide +kernel⟩
  · unfold EndsInPadding
    decide +kernel
  · exact ⟨1#8, by decide +kernel⟩

/-- A letter at each end of each range, and the bytes beside them. -/
theorem witness_CaeseAndCaesdShiftLetters :
    ([0x41#8, 0x7A#8, 0x5B#8] : List Byte)[0]? = some 0x41#8 ∧ isUpper 0x41#8 ∧ isUpper 0x5A#8 ∧ isLower 0x61#8 ∧
    isLower 0x7A#8 ∧ ¬ isUpper 0x40#8 ∧ ¬ isUpper 0x5B#8 ∧ ¬ isLower 0x60#8 ∧ ¬ isLower 0x7B#8 := by decide +kernel

theorem witness_VigenereTransformsEachByte :
    let ck := cleanKey (bytes 6 0x616263313233)
    ck ≠ [] ∧ (∀ c ∈ ck, isUpper c) ∧ ((1 : Int) = 1 ∨ (1 : Int) = -1) ∧ (letters 5)[4]? = some 0x61#8 ∧
      isLower 0x61#8 := by decide +kernel

theorem witness_VigenereCommandsDeliver :
    let p : Instr × (List Byte → List Byte → List Byte) := (.vigbd, fun d ck => vigBin d ck (-1))
    p = (Instr.vigte, fun d ck => vigText d ck 1) ∨ p = (Instr.vigtd, fun d ck => vigText d ck (-1)) ∨
      p = (Instr.vigbe, fun d ck => vigBin d ck 1) ∨ p = (Instr.vigbd, fun d ck => vigBin d ck (-1)) :=
  .inr (.inr (.inr rfl))

theorem witness_LegacyCiphersUndoThemselves :
    cleanKey (letters 2) ≠ [] ∧ utf8Valid [0x61#8, 0xC3#8, 0xA9#8] = true := by decide +kernel

/-- The last counter value that 00_scope R6 allows to start from, with the longest payload. -/
theorem witness_KeystreamBytes :
    ((0xFFFFFFFF : Nat) < 2 ^ 32 ∧ 32 < 33) ∧
    (letters 3)[2]? = some 0x61#8 ∧
    (({ small with ibufCap := 2 ^ 32 - 1, ksCtrInit := 2 ^ 32 - 2 ^ 27 } : Params).Valid ∧
      2 ^ 32 - 1 ≤ ({ small with ibufCap := 2 ^ 32 - 1, ksCtrInit := 2 ^ 32 - 2 ^ 27 } : Params).ibufCap ∧
      2 ^ 32 - 2 < 2 ^ 32 - 1) := by decide +kernel

theorem witness_SniffClassifiesThePayload :
    let s := given [0x61#8, 0x80#8] []
    1 < min 1024 s.n ∧ (s.ibufByte 1 = 0x00#8 ∨ (s.ibufByte 1).toNat > 0x7F) := by decide +kernel

/-- KSTE of 16 letters and KSB of 32 at the bound of OBUF, their outputs as payloads, and a payload that is no UTF-8. -/
theorem witness_KeystreamRoundTrips :
    let s := smallGiven (letters 16) (letters 1)
    let t := after (exec .kste s)
    let s' := smallGiven t.output (letters 1)
    let r := smallGiven (letters 32) (letters 32)
    let q := after (exec .ksb r)
    let r' := smallGiven q.output (letters 32)
    (s.params.Valid ∧ 1 ≤ s.kn ∧ s.kn ≤ s.params.kbufCap ∧ s.n ≤ s.params.ibufCap ∧ 2 * s.n ≤ s.params.obufCap ∧
      s'.params = s.params ∧ s'.n ≤ s.params.ibufCap ∧ s'.input = t.output ∧ s'.key = s.key ∧
      utf8Valid s.input = true) ∧
    (1 ≤ r.kn ∧ r.kn ≤ r.params.kbufCap ∧ r.n ≤ r.params.ibufCap ∧ r.n ≤ r.params.obufCap ∧ r'.params = r.params ∧
      r'.input = q.output ∧ r'.key = r.key) ∧
    utf8Valid (smallGiven [0xFF#8] (letters 1)).input = false ∧ 31 ≤ 32 := by decide +kernel

end Sys2Proof.Tests
end

section
/-! The rules of 10_state about who writes what (R22, R25, R28, R32, R36, R43). What a command leaves of the session, of
RES and of the host's inputs is read off `Ends` (Laws/Exec), what a host action leaves off `hostAct`. -/

namespace Sys2Proof.Machine

open Sys2Proof

variable {i : Instr} {s t : State}

/-! ## The next action of the host -/

/-- A step with an action left performs it (20_memory R63). -/
theorem step_of_inbox {a : HostAction} {rest : List HostAction} (h : s.inbox = a :: rest) :
    step s = hostAct a { s with inbox := rest } := by
  simp [step, h]

/-- A write of a register other than CMD sets that register (10_state R36). -/
theorem hostAct_writeReg_of_ne_zero {n : Nat} (hn : n ≠ 0) (v : Word32) (s : State) :
    hostAct (.writeReg n v) s = .next (hostSetReg s n v) := if_neg hn

/-- The host sets ILEN and KLEN and no other register (10_state R36). -/
theorem hostSetReg_of_not_length {n : Nat} (h2 : n ≠ 2) (h3 : n ≠ 3) (v : Word32) (s : State) :
    hostSetReg s n v = s := by
  unfold hostSetReg
  split
  · exact absurd rfl h2
  · exact absurd rfl h3
  · rfl

/-- What the host reads, as the table of 10_state R36. -/
theorem hostRegWord_eq_getD (s : State) (n : Nat) :
    hostRegWord s n = [0#32, s.status, s.ilen, s.klen, s.olen, s.res.setWidth 32].getD n 0#32 := by
  match n with
  | 0 | 1 | 2 | 3 | 4 | 5 => rfl
  | _ + 6 => rfl

/-- Bits 31:10 of every word that STATUS can hold are 0 (10_state R34). -/
theorem extractLsb'_of_mem_legalStatus : ∀ w ∈ legalStatus, w.extractLsb' 10 22 = 0#22 := by simp [legalStatus]

/-! ## Who writes what -/

/-- OBUF reads as before when neither its list nor the age of its unspecified bytes changed. -/
theorem sameOutput_of_fields (hn : t.olen = s.olen) (ho : t.obuf = s.obuf) (hg : t.outGen = s.outGen) :
    SameOutput s t :=
  ⟨hn, fun j => by simp only [State.obufByte, ho, hg]⟩

/-- No end of a command writes IBUF, ILEN, KBUF or KLEN. -/
theorem Ends.sameInputs (h : Ends i s t) : SameInputs s t := by
  cases h <;> exact ⟨rfl, rfl, fun _ => rfl, fun _ => rfl⟩

/-- A host action that is neither the issue of a command nor a reset leaves what is the core's (10_state R32). -/
theorem hostAct_keeps_core (a : HostAction) (s : State) (hw : ∀ v, a ≠ .writeReg 0 v) (hr : a ≠ .reset) :
    ∃ t, hostAct a s = .next t ∧ SameSession s t ∧ t.res = s.res ∧ SameOutput s t ∧ t.status = s.status := by
  cases a with
  | writeBuf sp j v =>
    exact ⟨_, rfl, ⟨by simp, by simp⟩, by simp, sameOutput_of_fields (by simp) (by simp) (by simp), by simp⟩
  | readBuf sp j => exact ⟨_, rfl, ⟨rfl, rfl⟩, rfl, sameOutput_of_fields rfl rfl rfl, rfl⟩
  | writeReg n v =>
    have hn : n ≠ 0 := fun h => hw v (h ▸ rfl)
    exact ⟨_, hostAct_writeReg_of_ne_zero hn v s, ⟨by simp, by simp⟩, by simp,
      sameOutput_of_fields (by simp) (by simp) (by simp), by simp⟩
  | readReg n => exact ⟨_, rfl, ⟨rfl, rfl⟩, rfl, sameOutput_of_fields rfl rfl rfl, rfl⟩
  | reset => exact absurd rfl hr

/-- Only GFMUL and SNIFF end with a write of RES (10_state R28). -/
theorem Ends.res_eq (h : Ends i s t) (hg : ∀ a b, i ≠ .gfmul a b) (hs : i ≠ .sniff) : t.res = s.res := by
  cases h with
  | wroteRes v hi =>
    obtain ⟨a, b, hi⟩ | hi := hi
    · exact absurd hi (hg a b)
    · exact absurd hi hs
  | _ => rfl

/-- SNIFF with ILEN in range (46_legacy_keystream R297). -/
theorem exec_sniff_of_ilen_inRange (h : s.n ≤ s.params.ibufCap) :
    exec .sniff s = .next (State.completed { s with res := if sniff s.input then 0x01#8 else 0x00#8 } false) :=
  check_pass (not_lt.2 h)

/-! ## STATE and RK -/

/-- The commands that end with a new STATE leave RK alone. -/
theorem mayChange_of_writes_state
    (hi : i ∈ [.ldst, .subb, .isubb, .shrow, .ishrow, .mixc, .imixc] ∨ ∃ rd, i = .ark rd) :
    mayChangeState i = true ∧ mayChangeSchedule i = false := by
  obtain hi | ⟨rd, rfl⟩ := hi
  · exact (by decide : ∀ j ∈ [Instr.ldst, .subb, .isubb, .shrow, .ishrow, .mixc, .imixc],
      mayChangeState j = true ∧ mayChangeSchedule j = false) i hi
  · exact ⟨rfl, rfl⟩

/-- The four payload commands may change STATE and RK. -/
theorem mayChange_of_payload {ks : BitVec 2}
    (hi : i = .aeste ks ∨ i = .aestd ks ∨ i = .aesfe ks ∨ i = .aesfd ks) :
    mayChangeState i = true ∧ mayChangeSchedule i = true := by
  rcases hi with rfl | rfl | rfl | rfl <;> exact ⟨rfl, rfl⟩

/-- ENCB and DECB may change STATE and leave RK alone. -/
theorem mayChange_of_block (hi : i = .encb ∨ i = .decb) : mayChangeState i = true ∧ mayChangeSchedule i = false := by
  rcases hi with rfl | rfl <;> exact ⟨rfl, rfl⟩

/-- The commands outside the list of 10_state R22 leave STATE. -/
theorem Ends.aesState_eq (h : Ends i s t) (hm : mayChangeState i = false) : t.aesState = s.aesState := by
  cases h with
  | late ks hi => subst hi; cases hm
  | wroteState S hi => simp [mayChange_of_writes_state hi] at hm
  | closed hi => subst hi; cases hm
  | block d hi => simp [mayChange_of_block hi] at hm
  | payload w d ks hi => simp [mayChange_of_payload hi] at hm
  | _ => rfl

/-- The commands outside the list of 10_state R25 leave RK. -/
theorem Ends.rk_eq (h : Ends i s t) (hm : mayChangeSchedule i = false) : t.rk = s.rk := by
  cases h with
  | late ks hi => subst hi; cases hm
  | wroteSchedule sch ks hi => subst hi; cases hm
  | closed hi => subst hi; cases hm
  | payload w d ks hi => simp [mayChange_of_payload hi] at hm
  | _ => rfl

/-- A command that leaves RK and is not ENCB or DECB does not clear STV (10_state R22). -/
theorem Ends.stv_of_stv (h : Ends i s t) (hm : mayChangeSchedule i = false) (hb : ¬ (i = .encb ∨ i = .decb))
    (hs : s.stv = true) : t.stv = true := by
  cases h with
  | late ks hi => subst hi; cases hm
  | wroteState S hi => rfl
  | closed hi => subst hi; cases hm
  | block d hi => exact absurd hi hb
  | payload w d ks hi => simp [mayChange_of_payload hi] at hm
  | _ => exact hs

/-- A successful LDST sets STV (10_state R22). -/
theorem Ends.stv_of_ldst (h : Ends .ldst s t) (hok : t.okFlag = true) : t.stv = true := by
  cases h with
  | wroteState S => rfl
  | raised c => simp at hok
  | delivered w d hi => cases hi
  | _ => simp_all

/-- A successful ENCB or DECB clears STV (43_aes_block_engine R192). -/
theorem Ends.aesState_of_block (h : Ends i s t) (hi : i = .encb ∨ i = .decb) (hok : t.okFlag = true) :
    t.aesState = none := by
  obtain ⟨hst, hsch⟩ := mayChange_of_block hi
  cases h with
  | block => rfl
  | raised c => simp at hok
  | delivered w d hd => simp [hst] at hd
  | payload w d ks hp => simp [mayChange_of_payload hp] at hsch
  | _ => rcases hi with rfl | rfl <;> simp_all

/-- A successful command that may change both STATE and RK clears both: KCLR and the payload commands
(44_mode_sequencer R219). -/
theorem Ends.session_closed (h : Ends i s t) (hst : mayChangeState i = true) (hsch : mayChangeSchedule i = true)
    (hok : t.okFlag = true) : t.aesState = none ∧ t.rk = none := by
  cases h with
  | closed | payload => exact ⟨rfl, rfl⟩
  | raised | late => simp at hok
  | wroteRes v hi => obtain ⟨a, b, rfl⟩ | rfl := hi <;> cases hst
  | wroteState S hi => simp [mayChange_of_writes_state hi] at hsch
  | wroteSchedule sch ks hi => subst hi; cases hst
  | passed hi => subst hi; cases hst
  | delivered w d hi => simp [hst] at hi
  | block d hi => simp [mayChange_of_block hi] at hsch

/-- The code of the size that a KS field stands for is the field (30_encoding R97). -/
theorem code_of_keySizeOf {ks : BitVec 2} {size : KeySize} (h : keySizeOf ks = some size) : size.code = ks := by
  revert ks
  cases size <;> decide

/-- RKS is never 3 (10_state R25). -/
theorem rks_ne_three (s : State) : s.rks ≠ some 3 := by
  unfold State.rks
  cases s.rk with
  | none => simp
  | some sch => cases h : sch.size <;> simp [KeySize.code, h]

/-- A successful KEXP sets RKV and RKS (42_aes_key_schedule R173). -/
theorem Ends.rks_of_kexp {ks : BitVec 2} (h : Ends (.kexp ks) s t) (hok : t.okFlag = true) : t.rks = some ks := by
  cases h with
  | wroteSchedule sch ks' hi hk =>
    cases hi
    exact congrArg some (code_of_keySizeOf hk)
  | raised c => simp at hok
  | delivered w d hd hs => cases hs
  | _ => simp_all

/-- RKV = 1 where RKS is known. -/
theorem rkv_of_rks {ks : BitVec 2} (h : s.rks = some ks) : s.rkv = true := by
  obtain ⟨sch, hr, -⟩ := Option.map_eq_some_iff.1 h
  simp [State.rkv, hr]

/-! ## What the commands report without STATE or RK -/

/-- A command that raises a cause fails with the cause's STATUS word. -/
theorem fails_of_raise {c : Cause} {w : Word32} (h : exec i s = raise c s) (hw : errorStatus c = w) :
    ∃ t, exec i s = .next t ∧ FailsWith w s t :=
  ⟨s.raised c, h, hw ▸ failsWith_raised s c⟩

/-- A transform without STATE (41_aes_core_transform R140). -/
theorem transform_of_no_state (f : Matrix → Matrix) (h : s.aesState = none) : transform f s = raise .stateInvalid s := by
  simp [transform, h]

/-- ENCB and DECB without a schedule, ILEN in range (43_aes_block_engine R192). -/
theorem blockCommand_of_no_schedule (f : List Byte → List KeyWord → Nat → List Byte) (hn : s.n ≤ s.params.ibufCap)
    (h : s.rk = none) : blockCommand f s = raise .roundKeysInvalid s := by
  simp [blockCommand, check_pass (not_lt.2 hn), h]

/-- The eight commands that read STATE (10_state R22). -/
def ReadsState (i : Instr) : Prop :=
  i = .stst ∨ i = .subb ∨ i = .isubb ∨ i = .shrow ∨ i = .ishrow ∨ i = .mixc ∨ i = .imixc ∨ ∃ rd, i = .ark rd

/-- They report StateInvalid without it. -/
theorem exec_of_no_state (hi : ReadsState i) (h : s.aesState = none) : exec i s = raise .stateInvalid s := by
  obtain rfl | rfl | rfl | rfl | rfl | rfl | rfl | ⟨rd, rfl⟩ := hi
  · simp [exec, execStst, h]
  iterate 6 (· exact transform_of_no_state _ h)
  · simp [exec, execArk, h]

/-- They keep it (10_state R22). -/
theorem Ends.stv_of_readsState (h : Ends i s t) (hi : ReadsState i) (hs : s.stv = true) : t.stv = true := by
  obtain rfl | rfl | rfl | rfl | rfl | rfl | rfl | ⟨rd, rfl⟩ := hi <;> exact h.stv_of_stv rfl (by simp) hs

/-- ENCB, DECB, RDRK and ARK report RoundKeysInvalid without a schedule, once the checks before that one pass
(10_state R25). -/
theorem exec_of_no_schedule (hr : s.rk = none)
    (hi : (i = .encb ∨ i = .decb) ∧ s.n ≤ s.params.ibufCap ∨ (∃ rd, i = .rdrk rd) ∨
      (∃ rd, i = .ark rd) ∧ s.stv = true) : exec i s = raise .roundKeysInvalid s := by
  obtain ⟨rfl | rfl, hn⟩ | ⟨rd, rfl⟩ | ⟨⟨rd, rfl⟩, hs⟩ := hi
  · exact blockCommand_of_no_schedule _ hn hr
  · exact blockCommand_of_no_schedule _ hn hr
  · simp [exec, execRdrk, hr]
  · obtain ⟨S, hS⟩ := Option.isSome_iff_exists.1 hs
    simp [exec, execArk, hS, hr]

/-! ## The obligations -/

/-- Settles O17: a command's half is `Ends.sameInputs`, the host's half `hostAct_keeps_core`. -/
theorem coreAndHostOwnTheirState : Obligations.CoreAndHostOwnTheirState :=
  ⟨fun i s => (exec_ends i s).imp fun _ h => ⟨h.1, h.2.sameInputs⟩, hostAct_keeps_core⟩

/-- Settles O19: of the ways a command can end, `wroteRes` alone writes RES. -/
theorem onlyGfmulAndSniffWriteRes : Obligations.OnlyGfmulAndSniffWriteRes := by
  refine ⟨fun i s hg hs => ?_, fun a b s => ⟨_, rfl, rfl⟩, fun s hn => ⟨_, exec_sniff_of_ilen_inRange hn, ?_⟩,
    fun a s hw hr => ?_, rfl⟩
  · obtain ⟨t, ht, he⟩ := exec_ends i s
    exact ⟨t, ht, he.res_eq hg hs⟩
  · cases sniff s.input <;> simp
  · obtain ⟨t, ht, -, hres, -⟩ := hostAct_keeps_core a s hw hr
    exact ⟨t, ht, hres⟩

/-- Settles O22: what a command makes of STV and RKV is read off the way it ends, what it reports without STATE or RK off
its checks. -/
theorem sessionBitsFollowTheCommands : Obligations.SessionBitsFollowTheCommands := by
  refine ⟨⟨rfl, rfl⟩, fun i s => ?_, fun i s hi => ⟨fun hs => ?_, fun hs => ?_⟩, fun i s hr hi => ?_⟩
  · obtain ⟨t, ht, he⟩ := exec_ends i s
    refine ⟨t, ht, he.aesState_eq, he.rk_eq, ?_, fun hi hok => ?_, fun hi hok => ?_, ?_, rks_ne_three t⟩
    · rintro hok rfl
      exact he.stv_of_ldst hok
    · exact ⟨by simp [State.stv, he.aesState_of_block hi hok], he.rk_eq (mayChange_of_block hi).2⟩
    · have hm : mayChangeState i = true ∧ mayChangeSchedule i = true := by
        obtain rfl | ⟨ks, hi⟩ := hi
        · exact ⟨rfl, rfl⟩
        · exact mayChange_of_payload hi
      obtain ⟨hst, hrk⟩ := he.session_closed hm.1 hm.2 hok
      simp [State.stv, State.rkv, hst, hrk]
    · rintro ks rfl hok
      have hks := he.rks_of_kexp hok
      exact ⟨rkv_of_rks hks, hks, he.aesState_eq rfl⟩
  · exact fails_of_raise (exec_of_no_state hi (by simpa [State.stv] using hs)) rfl
  · obtain ⟨t, ht, he⟩ := exec_ends i s
    exact ⟨t, ht, he.stv_of_readsState hi hs⟩
  · exact fails_of_raise (exec_of_no_schedule (by simpa [State.rkv] using hr) hi) rfl

/-- Settles O12: the start state, and `hostReset` of any state. -/
theorem resetLeavesTheSpecsValues : Obligations.ResetLeavesTheSpecsValues := by
  rintro t (rfl | ⟨s, rest, hi, ht⟩)
  · exact ⟨rfl, rfl, rfl, rfl, rfl, rfl, rfl⟩
  · have hn : Host.Outcome.next (hostReset { s with inbox := rest }) = .next t := (step_of_inbox hi).symm.trans ht
    cases hn
    exact ⟨rfl, rfl, rfl, rfl, rfl, rfl, rfl⟩

/-- Settles O13: one step performs the access, and the table of reads is `hostRegWord_eq_getD`. -/
theorem hostReachesRegistersByNumber : Obligations.HostReachesRegistersByNumber := by
  refine ⟨fun s rest n hi => ?_, fun s rest v hi => ?_, fun s rest v hi => ?_, fun s rest v hi => ?_,
    fun s rest n v hi hn => ?_, fun s hs => extractLsb'_of_mem_legalStatus _ hs.status_legal, ⟨rfl, rfl, rfl, rfl, rfl⟩⟩
  · rw [step_of_inbox hi, hostAct, hostRegWord_eq_getD]
  · exact step_of_inbox hi
  · exact step_of_inbox hi
  · exact step_of_inbox hi
  · rw [step_of_inbox hi, hostAct_writeReg_of_ne_zero (by omega), hostSetReg_of_not_length (by omega) (by omega)]

end Sys2Proof.Machine
end

section
/-! The rules of 20_memory: the host's accesses to the buffers (R63, R64), and the checks that precede a command's work,
of the length registers (R73) and of the output need (R72). What every command does about the two checks is said once,
by `exec_checksRanges`; what it leaves in OBUF and OLEN is read off `Ends` (Laws/Exec). -/

namespace Sys2Proof.Machine

open Sys2Proof

variable {i : Instr} {s t : State} {k : Out} {c : Cause} {need : Nat} {ks : BitVec 2}

/-! ## The host's accesses to the buffers -/

/-- A host read from the capacity up gives 0 (20_memory R64). -/
theorem hostBufByte_of_cap_le {space : Space} {j : Nat} (h : s.cap space ≤ j) : hostBufByte s space j = 0#8 :=
  if_neg (not_lt.2 h)

/-- A host write below the capacity of IBUF (20_memory R63). -/
theorem hostSetBuf_ibuf_of_lt {j : Nat} (h : j < s.params.ibufCap) (v : Byte) :
    hostSetBuf s .ibuf j v = { s with ibuf := s.ibuf.set j v } := if_pos h

/-- A host write below the capacity of KBUF (20_memory R63). -/
theorem hostSetBuf_kbuf_of_lt {j : Nat} (h : j < s.params.kbufCap) (v : Byte) :
    hostSetBuf s .kbuf j v = { s with kbuf := s.kbuf.set j v } := if_pos h

/-- A host write from the capacity of IBUF up is ignored (20_memory R64). -/
theorem hostSetBuf_ibuf_of_le {j : Nat} (h : s.params.ibufCap ≤ j) (v : Byte) : hostSetBuf s .ibuf j v = s :=
  if_neg (not_lt.2 h)

/-- A host write from the capacity of KBUF up is ignored (20_memory R64). -/
theorem hostSetBuf_kbuf_of_le {j : Nat} (h : s.params.kbufCap ≤ j) (v : Byte) : hostSetBuf s .kbuf j v = s :=
  if_neg (not_lt.2 h)

/-- The bytes of IBUF after one of them is written. -/
theorem ibufByte_set (s : State) (j m : Nat) (v : Byte) :
    State.ibufByte { s with ibuf := s.ibuf.set j v } m = if m = j then v else s.ibufByte m := by
  by_cases h : m = j <;> simp [State.ibufByte, h]

/-- The bytes of KBUF after one of them is written. -/
theorem kbufByte_set (s : State) (j m : Nat) (v : Byte) :
    State.kbufByte { s with kbuf := s.kbuf.set j v } m = if m = j then v else s.kbufByte m := by
  by_cases h : m = j <;> simp [State.kbufByte, h]

/-- Register numbers from 6 up read 0 (20_memory R64). -/
theorem hostRegWord_of_six_le {n : Nat} (h : 6 ≤ n) : hostRegWord s n = 0#32 := by
  rw [hostRegWord_eq_getD]
  exact List.getD_eq_default _ _ h

/-- Settles O14: one step performs the access, which splits at the capacity. -/
theorem hostReachesBuffersByIndex : Obligations.HostReachesBuffersByIndex := by
  refine ⟨fun s rest space j hi => ⟨hostBufByte s space j, step_of_inbox hi, hostBufByte_of_cap_le, fun h => ?_⟩,
    fun s rest j v hi hj => ⟨s.ibuf.set j v, ?_, fun m => ibufByte_set s j m v⟩,
    fun s rest j v hi hj => ⟨s.kbuf.set j v, ?_, fun m => kbufByte_set s j m v⟩,
    fun s rest j v h => ?_, fun s rest n v hn => ⟨fun hi => ?_, fun hi => ?_⟩⟩
  · cases space <;> exact if_pos h
  · rw [step_of_inbox hi, hostAct, hostSetBuf_ibuf_of_lt (by exact hj)]
  · rw [step_of_inbox hi, hostAct, hostSetBuf_kbuf_of_lt (by exact hj)]
  · obtain ⟨hi, hj⟩ | ⟨hi, hj⟩ := h
    · rw [step_of_inbox hi, hostAct, hostSetBuf_ibuf_of_le (by exact hj)]
    · rw [step_of_inbox hi, hostAct, hostSetBuf_kbuf_of_le (by exact hj)]
  · rw [step_of_inbox hi, hostAct, hostRegWord_of_six_le hn]
  · rw [step_of_inbox hi, hostAct_writeReg_of_ne_zero (by omega), hostSetReg_of_not_length (by omega) (by omega)]

/-! ## The checks of the length registers and of the output need -/

/-- A length register that command i reads is above the capacity of its buffer (20_memory R73). -/
def LenOut (i : Instr) (s : State) : Prop :=
  (readsInput i = true ∧ s.ilenOutOfRange) ∨ (readsKey i = true ∧ s.klenOutOfRange)

/-- The output need that command i checks is above the capacity of OBUF (20_memory R72). -/
def NeedOut (i : Instr) (s : State) : Prop :=
  ∃ need, needOf s.params s.n i = some need ∧ s.needTooLarge need

theorem lenOut_iff_of_input (hi : readsInput i = true) (hk : readsKey i = false) : LenOut i s ↔ s.ilenOutOfRange := by
  simp [LenOut, hi, hk]

theorem lenOut_iff_of_key (hi : readsInput i = false) (hk : readsKey i = true) : LenOut i s ↔ s.klenOutOfRange := by
  simp [LenOut, hi, hk]

theorem lenOut_iff_of_both (hi : readsInput i = true) (hk : readsKey i = true) :
    LenOut i s ↔ s.ilenOutOfRange ∨ s.klenOutOfRange := by
  simp [LenOut, hi, hk]

theorem not_lenOut_of_neither (hi : readsInput i = false) (hk : readsKey i = false) : ¬ LenOut i s := by
  simp [LenOut, hi, hk]

/-- A command's lengths are in range when each register it reads is. -/
theorem not_lenOut (hi : readsInput i = true → s.n ≤ s.params.ibufCap)
    (hk : readsKey i = true → s.kn ≤ s.params.kbufCap) : ¬ LenOut i s := by
  rintro (⟨h, hn⟩ | ⟨h, hn⟩)
  · exact (hi h).not_gt hn
  · exact (hk h).not_gt hn

/-- The need of a command is one number. -/
theorem needOut_iff (hn : needOf s.params s.n i = some need) : NeedOut i s ↔ s.needTooLarge need := by
  simp [NeedOut, hn]

theorem not_needOut (hn : needOf s.params s.n i = none) : ¬ NeedOut i s := by
  simp [NeedOut, hn]

/-- The causes of the two checks. -/
def rangeCauses : List Cause := [.lenRegRange, .capacity]

/-- The outcome reports neither of them. -/
def RangeFree (o : Out) : Prop := ∀ t, o = .next t → ∀ c ∈ rangeCauses, t.status ≠ errorStatus c

theorem rangeFree_okWarn (w : Bool) (s : State) : RangeFree (okWarn w s) := by
  intro t h c _
  simp [okWarn_eq_next.1 h]

theorem rangeFree_raise (hc : c ∉ rangeCauses) (s : State) : RangeFree (raise c s) := by
  rintro t h c' hc' he
  rw [raise_eq_next.1 h, raised_status, errorStatus_inj] at he
  exact hc (he ▸ hc')

theorem rangeFree_check {bad : Prop} [Decidable bad] (hc : c ∉ rangeCauses) (hk : RangeFree k) :
    RangeFree (check bad c s k) := by
  by_cases hb : bad
  · rw [check_fail hb]
    exact rangeFree_raise hc s
  · rwa [check_pass hb]

/-- An error that a command reports is one of its row (60_exceptions R323). -/
theorem Ends.mem_causesOf (h : Ends i s t) (hc : t.status = errorStatus c) : c ∈ causesOf i := by
  cases h with
  | raised c' hc' =>
    rw [raised_status, errorStatus_inj] at hc
    exact hc ▸ hc'
  | late ks hi =>
    rw [raised_status, errorStatus_inj] at hc
    subst hi hc
    simp [causesOf]
  | _ => simp at hc

/-- What command i, run from s with outcome o, does about its length registers and its need: a register out of range is
reported before anything else, then a need above the capacity, and otherwise neither is (20_memory R72, R73). -/
structure ChecksRanges (i : Instr) (s : State) (o : Out) : Prop where
  lenOut : LenOut i s → o = raise .lenRegRange s
  needOut : ¬ LenOut i s → NeedOut i s → o = raise .capacity s
  rangeFree : ¬ LenOut i s → ¬ NeedOut i s → RangeFree o

/-- A command that makes both checks, the length registers first. -/
theorem checksRanges_of_both {bad : Prop} [Decidable bad] (hl : LenOut i s ↔ bad)
    (hn : needOf s.params s.n i = some need) (hk : RangeFree k) :
    ChecksRanges i s (check bad .lenRegRange s (check (s.needTooLarge need) .capacity s k)) where
  lenOut h := check_fail (hl.1 h)
  needOut h1 h2 := by rw [check_pass (mt hl.2 h1), check_fail ((needOut_iff hn).1 h2)]
  rangeFree h1 h2 := by rwa [check_pass (mt hl.2 h1), check_pass (mt (needOut_iff hn).2 h2)]

/-- A command that checks its length registers and no need. -/
theorem checksRanges_of_length {bad : Prop} [Decidable bad] (hl : LenOut i s ↔ bad)
    (hn : needOf s.params s.n i = none) (hk : RangeFree k) : ChecksRanges i s (check bad .lenRegRange s k) where
  lenOut h := check_fail (hl.1 h)
  needOut _ h := absurd h (not_needOut hn)
  rangeFree h _ := by rwa [check_pass (mt hl.2 h)]

/-- A command that makes neither check. -/
theorem checksRanges_of_neither (hi : readsInput i = false) (hk : readsKey i = false)
    (hn : needOf s.params s.n i = none) (hc : ∀ c ∈ rangeCauses, c ∉ causesOf i) : ChecksRanges i s (exec i s) where
  lenOut h := absurd h (not_lenOut_of_neither hi hk)
  needOut _ h := absurd h (not_needOut hn)
  rangeFree _ _ t ht c hr hs := by
    obtain ⟨t', ht', he⟩ := exec_ends i s
    cases ht'.symm.trans ht
    exact hc c hr (he.mem_causesOf hs)

theorem precheck_checksRanges (hi : readsInput i = true) (hk : readsKey i = false)
    (hn : needOf s.params s.n i = some need) (hf : RangeFree k) : ChecksRanges i s (precheck need s k) :=
  checksRanges_of_both (lenOut_iff_of_input hi hk) hn hf

theorem keystreamChecks_checksRanges (hi : readsInput i = true) (hk : readsKey i = true)
    (hn : needOf s.params s.n i = some need) (hf : RangeFree k) : ChecksRanges i s (keystreamChecks need s k) :=
  checksRanges_of_both (lenOut_iff_of_both hi hk) hn (rangeFree_check (by decide) hf)

theorem payloadChecks_checksRanges {f : KeySize → Out} (hi : readsInput i = true) (hk : readsKey i = true)
    (hn : needOf s.params s.n i = some need) (hf : ∀ size, RangeFree (f size)) :
    ChecksRanges i s (payloadChecks need ks s f) := by
  refine checksRanges_of_both (lenOut_iff_of_both hi hk) hn ?_
  split
  · exact rangeFree_raise (by decide) s
  · exact rangeFree_check (by decide) (hf _)

theorem caesarCommand_checksRanges {x : Byte} {z : Int} (hi : readsInput i = true) (hk : readsKey i = false)
    (hn : needOf s.params s.n i = some s.n) : ChecksRanges i s (caesarCommand x z s) :=
  checksRanges_of_both (lenOut_iff_of_input hi hk) hn (rangeFree_check (by decide) (rangeFree_okWarn _ _))

theorem vigenereCommand_checksRanges {f : List Byte → List Byte → List Byte} (hi : readsInput i = true)
    (hk : readsKey i = true) (hn : needOf s.params s.n i = some s.n) : ChecksRanges i s (vigenereCommand f s) :=
  checksRanges_of_both (lenOut_iff_of_both hi hk) hn (rangeFree_check (by decide) (rangeFree_okWarn _ _))

theorem blockCommand_checksRanges {f : List Byte → List KeyWord → Nat → List Byte} (hi : readsInput i = true)
    (hk : readsKey i = false) (hn : needOf s.params s.n i = none) : ChecksRanges i s (blockCommand f s) := by
  refine checksRanges_of_length (lenOut_iff_of_input hi hk) hn ?_
  split
  · exact rangeFree_raise (by decide) s
  · exact rangeFree_check (by decide) (rangeFree_okWarn _ _)

/-- Every command makes the two checks that the tables of 20_memory R60 and R72 give it, in this order and before any
other. -/
theorem exec_checksRanges (i : Instr) (s : State) : ChecksRanges i s (exec i s) := by
  cases i with
  | gfmul | stst | subb | isubb | shrow | ishrow | mixc | imixc | ark | kclr | rdrk =>
    exact checksRanges_of_neither rfl rfl rfl (by simp [rangeCauses, causesOf])
  | ldst =>
    exact checksRanges_of_length (lenOut_iff_of_input rfl rfl) rfl (rangeFree_check (by decide) (rangeFree_okWarn _ _))
  | u8chk =>
    exact checksRanges_of_length (lenOut_iff_of_input rfl rfl) rfl (rangeFree_check (by decide) (rangeFree_okWarn _ _))
  | sniff => exact checksRanges_of_length (lenOut_iff_of_input rfl rfl) rfl (rangeFree_okWarn _ _)
  | vkcln =>
    exact checksRanges_of_length (lenOut_iff_of_key rfl rfl) rfl (rangeFree_check (by decide) (rangeFree_okWarn _ _))
  | kexp ks | kdf ks =>
    refine checksRanges_of_length (lenOut_iff_of_key rfl rfl) rfl ?_
    split
    · exact rangeFree_raise (by decide) s
    · exact rangeFree_check (by decide) (rangeFree_okWarn _ _)
  | encb | decb => exact blockCommand_checksRanges rfl rfl rfl
  | pad | unpadv | hexe => exact precheck_checksRanges rfl rfl rfl (rangeFree_okWarn _ _)
  | unpadu => exact precheck_checksRanges rfl rfl rfl (rangeFree_check (by decide) (rangeFree_okWarn _ _))
  | hexd =>
    refine precheck_checksRanges rfl rfl rfl ?_
    split
    · exact rangeFree_raise (by decide) s
    · exact rangeFree_okWarn _ _
  | aeste | aesfe => exact payloadChecks_checksRanges rfl rfl rfl fun _ => rangeFree_okWarn _ _
  | aestd =>
    refine payloadChecks_checksRanges rfl rfl rfl fun size => ?_
    split
    · exact rangeFree_raise (by decide) s
    · exact rangeFree_check (by decide) (rangeFree_check (by decide) (rangeFree_check (by decide) (rangeFree_okWarn _ _)))
  | aesfd =>
    exact payloadChecks_checksRanges rfl rfl rfl fun _ => rangeFree_check (by decide) (rangeFree_okWarn _ _)
  | caese | caesd => exact caesarCommand_checksRanges rfl rfl rfl
  | vigte | vigtd | vigbe | vigbd =>
    simp only [exec, execVigte, execVigtd, execVigbe, execVigbd]
    exact vigenereCommand_checksRanges rfl rfl rfl
  | ksgen | kste | ksb => exact keystreamChecks_checksRanges rfl rfl rfl (rangeFree_okWarn _ _)
  | kstd =>
    refine keystreamChecks_checksRanges rfl rfl rfl ?_
    split
    · exact rangeFree_raise (by decide) s
    · exact rangeFree_check (by decide) (rangeFree_okWarn _ _)

/-- With the registers it reads in range a command does not report LenRegRange (20_memory R73). -/
theorem status_ne_lenRegRange (hl : ¬ LenOut i s) (ht : exec i s = .next t) : t.status ≠ errorStatus .lenRegRange := by
  by_cases hn : NeedOut i s
  · rw [(exec_checksRanges i s).needOut hl hn, raise_eq_next] at ht
    simp [ht]
  · exact (exec_checksRanges i s).rangeFree hl hn t ht _ (by decide)

/-- With its need within the capacity a command does not report Capacity, whatever its length registers hold
(20_memory R72). -/
theorem status_ne_capacity (hn : ¬ LenOut i s → ¬ NeedOut i s) (ht : exec i s = .next t) :
    t.status ≠ errorStatus .capacity := by
  by_cases hl : LenOut i s
  · rw [(exec_checksRanges i s).lenOut hl, raise_eq_next] at ht
    simp [ht]
  · exact (exec_checksRanges i s).rangeFree hl (hn hl) t ht _ (by decide)

/-! ## Commands that read neither buffer -/

/-- The result of f is the same whatever ILEN and KLEN hold, the two registers themselves apart (20_memory R73). -/
def IgnoresLengths (f : State → Out) : Prop :=
  ∀ (s : State) (v v' : Word32),
    ∃ t, f s = .next t ∧ f { s with ilen := v, klen := v' } = .next { t with ilen := v, klen := v' }

theorem transform_ignoresLengths (f : Matrix → Matrix) : IgnoresLengths (transform f) := by
  intro s v v'
  simp only [transform]
  split <;> exact ⟨_, rfl, rfl⟩

theorem execStst_ignoresLengths : IgnoresLengths execStst := by
  intro s v v'
  simp only [execStst]
  split <;> exact ⟨_, rfl, rfl⟩

theorem execArk_ignoresLengths (rd : BitVec 4) : IgnoresLengths (execArk rd) := by
  intro s v v'
  simp only [execArk, check]
  split
  · exact ⟨_, rfl, rfl⟩
  · exact ⟨_, rfl, rfl⟩
  · split_ifs <;> exact ⟨_, rfl, rfl⟩

theorem execRdrk_ignoresLengths (rd : BitVec 4) : IgnoresLengths (execRdrk rd) := by
  intro s v v'
  simp only [execRdrk, check]
  split
  · exact ⟨_, rfl, rfl⟩
  · split_ifs <;> exact ⟨_, rfl, rfl⟩

theorem exec_ignoresLengths (hi : readsInput i = false) (hk : readsKey i = false) : IgnoresLengths (exec i) := by
  cases i with
  | gfmul | kclr => exact fun s v v' => ⟨_, rfl, rfl⟩
  | stst => exact execStst_ignoresLengths
  | subb | isubb | shrow | ishrow | mixc | imixc => exact transform_ignoresLengths _
  | ark rd => exact execArk_ignoresLengths rd
  | rdrk rd => exact execRdrk_ignoresLengths rd
  | kexp | kdf | vkcln => cases hk
  | _ => cases hi

/-- Settles O20: the check of the length registers is the first of every command that reads one. -/
theorem lengthRegistersAreCheckedFirst : Obligations.LengthRegistersAreCheckedFirst := by
  refine ⟨fun i s h => fails_of_raise ((exec_checksRanges i s).lenOut h) rfl, fun i s hi hk => ?_,
    fun i s v v' hi hk => exec_ignoresLengths hi hk s v v'⟩
  obtain ⟨t, ht, -⟩ := exec_ends i s
  exact ⟨t, ht, status_ne_lenRegRange (not_lenOut hi hk) ht⟩

/-! ## The needs and the output -/

/-- The commands that check a need read ILEN (20_memory R60, R72). -/
theorem readsInput_of_needOf {p : Params} {n : Nat} (h : needOf p n i = some need) : readsInput i = true := by
  cases i <;> simp_all [needOf, readsInput]

/-- No need is above that of AESTE, two digits for each byte of the padded payload (20_memory R72). -/
theorem needOf_le {p : Params} {n : Nat} (h : needOf p n i = some need) : need ≤ 2 * (n + 16) := by
  cases i with
  | aesfe =>
    cases h
    split_ifs <;> omega
  | _ => cases h <;> omega

/-- The needs that are checked and those that need no check exclude each other (20_memory R72). -/
theorem smallNeedOf_eq_none {p : Params} {n : Nat} (h : needOf p n i = some need) (kn : Nat) :
    smallNeedOf kn i = none := by
  cases i <;> simp_all [needOf, smallNeedOf]

/-- A command with a need has an output (20_memory R72). -/
theorem noOutput_eq_false {p : Params} {n kn : Nat} (h : needOf p n i = some need ∨ smallNeedOf kn i = some need) :
    noOutput i = false := by
  cases i <;> simp_all [needOf, smallNeedOf, noOutput]

theorem KeySize.bytes_le (size : KeySize) : size.bytes ≤ 32 := by
  cases size <;> decide

/-- 16 bytes, a key, and a cleaned key fit OBUF under the constraints of 00_scope R6. -/
theorem smallNeedOf_le (hp : s.params.Valid) (hn : smallNeedOf s.kn i = some need)
    (hk : readsKey i = true → s.kn ≤ s.params.kbufCap) : need ≤ s.params.obufCap := by
  obtain ⟨-, -, hcap, -⟩ := hp
  cases i with
  | stst | rdrk | encb | decb =>
    cases hn
    omega
  | kdf ks =>
    obtain ⟨size, -, rfl⟩ := Option.map_eq_some_iff.1 hn
    have := size.bytes_le
    omega
  | vkcln =>
    cases hn
    have := hk rfl
    omega
  | _ => cases hn

/-- A delivery is no longer than the command's need. -/
theorem Fits.length_le {d : List Byte} (hf : Fits i s d)
    (hn : needOf s.params s.n i = some need ∨ smallNeedOf s.kn i = some need) : d.length ≤ need := by
  obtain ⟨m, hm, hd, -⟩ | ⟨m, hm, hnone, hd, -⟩ := hf
  · simp_all [smallNeedOf_eq_none hm]
  · simp_all

/-- The commands that end with a new STATE have no output. -/
theorem noOutput_of_writes_state
    (hi : i ∈ [.ldst, .subb, .isubb, .shrow, .ishrow, .mixc, .imixc] ∨ ∃ rd, i = .ark rd) : noOutput i = true := by
  obtain hi | ⟨rd, rfl⟩ := hi
  · exact (by decide : ∀ j ∈ [Instr.ldst, .subb, .isubb, .shrow, .ishrow, .mixc, .imixc], noOutput j = true) i hi
  · rfl

/-- What a command leaves in OBUF and OLEN: nothing after an error, the output as before where R72 says "no output to
OBUF", a delivery within its need otherwise. -/
theorem Ends.output_cases (h : Ends i s t) :
    (t.okFlag = false ∧ t.olen = 0#32) ∨ (noOutput i = true ∧ SameOutput s t) ∨
    (noOutput i = false ∧ ∃ d, Fits i s d ∧ t.olen = BitVec.ofNat 32 d.length) := by
  cases h with
  | raised | late => exact .inl ⟨raised_okFlag .., rfl⟩
  | wroteRes v hi =>
    have hn : noOutput i = true := by obtain ⟨a, b, rfl⟩ | rfl := hi <;> rfl
    exact .inr (.inl ⟨hn, sameOutput_of_fields rfl rfl rfl⟩)
  | wroteState S hi => exact .inr (.inl ⟨noOutput_of_writes_state hi, sameOutput_of_fields rfl rfl rfl⟩)
  | wroteSchedule sch ks hi => exact .inr (.inl ⟨hi ▸ rfl, sameOutput_of_fields rfl rfl rfl⟩)
  | closed hi | passed hi => exact .inr (.inl ⟨hi ▸ rfl, sameOutput_of_fields rfl rfl rfl⟩)
  | delivered w d _ _ hn _ hf => exact .inr (.inr ⟨hn, d, hf, rfl⟩)
  | block d hi hf => exact .inr (.inr ⟨by obtain rfl | rfl := hi <;> rfl, d, hf, rfl⟩)
  | payload w d ks hi _ hf => exact .inr (.inr ⟨by obtain rfl | rfl | rfl | rfl := hi <;> rfl, d, hf, rfl⟩)

/-- No command leaves OLEN above its need (20_memory R72). -/
theorem Ends.olen_le_need (h : Ends i s t)
    (hn : needOf s.params s.n i = some need ∨ smallNeedOf s.kn i = some need) : t.olen.toNat ≤ need := by
  obtain ⟨-, ho⟩ | ⟨hno, -⟩ | ⟨-, d, hf, ho⟩ := h.output_cases
  · simp [ho]
  · simp [noOutput_eq_false hn] at hno
  · rw [ho, BitVec.toNat_ofNat]
    exact (Nat.mod_le ..).trans (hf.length_le hn)

/-- A successful command without output keeps OBUF and OLEN (20_memory R72). -/
theorem Ends.sameOutput (h : Ends i s t) (hno : noOutput i = true) (hok : t.okFlag = true) : SameOutput s t := by
  obtain ⟨hf, -⟩ | ⟨-, ho⟩ | ⟨hf, -⟩ := h.output_cases
  · simp [hf] at hok
  · exact ho
  · simp [hf] at hno

/-- R6's default OBUF_CAP is the largest need that R6's default IBUF_CAP allows. -/
theorem not_needOut_of_default (hp : s.params = {}) (hl : ¬ LenOut i s) : ¬ NeedOut i s := by
  rintro ⟨need, hn, hbig⟩
  have hin : ¬ s.ilenOutOfRange := fun h => hl (.inl ⟨readsInput_of_needOf hn, h⟩)
  have hle := needOf_le hn
  simp only [hp, State.ilenOutOfRange, State.needTooLarge] at hin hbig
  omega

/-- Settles O21: Capacity is the second check of the commands that make it, and a delivery fits the need. -/
theorem capacityIsCheckedByNeed : Obligations.CapacityIsCheckedByNeed := by
  refine ⟨fun i s need hn hin hk => ?_, fun i s need hn => ?_, fun i s need => smallNeedOf_le, fun i s hn => ?_,
    fun i s hno => ?_, fun i s hp => ?_⟩ <;> obtain ⟨t, ht, he⟩ := exec_ends i s <;> refine ⟨t, ht, ?_⟩
  · have hl : ¬ LenOut i s := not_lenOut (fun _ => hin) hk
    refine ⟨fun hbig => ?_, fun hfit => status_ne_capacity (fun _ => ?_) ht⟩
    · rw [(exec_checksRanges i s).needOut hl ((needOut_iff hn).2 hbig), raise_eq_next] at ht
      exact ht ▸ failsWith_raised s .capacity
    · rw [needOut_iff hn]
      exact not_lt.2 hfit
  · exact he.olen_le_need hn
  · exact status_ne_capacity (fun _ => not_needOut hn) ht
  · exact he.sameOutput hno
  · exact status_ne_capacity (not_needOut_of_default hp) ht

end Sys2Proof.Machine
end

section
/-! The rules of 30_encoding about words and fields: which opcodes are legal (R99), the reserved bits (R100), and the
operand fields with their illegal values (R97). What the decoder answers is said once, from the row that `rowOf` has for
the word's opcode. -/

namespace Sys2Proof.Machine

open Sys2Proof

variable {i : Instr} {s t : State} {c : Cause} {w : Word32} {opc : Byte} {f : Format} {ks : BitVec 2} {rd : BitVec 4}
  {x : Byte}

/-! ## The opcode map and the decoder -/

/-- Every command's opcode has a row, of the command's format and for a command of this opcode (30_encoding R98). -/
theorem rowOf_opcode (i : Instr) (w : Word32) : ∃ j, rowOf i.opcode w = some (i.format, j) ∧ j.opcode = i.opcode := by
  cases i <;> exact ⟨_, rfl, rfl⟩

/-- A row of the opcode map has its command's opcode and format (30_encoding R98). -/
theorem opcode_format_of_rowOf (h : rowOf opc w = some (f, i)) : i.opcode = opc ∧ i.format = f := by
  unfold rowOf at h
  split at h <;> cases h <;> exact ⟨rfl, rfl⟩

/-- An opcode has no row exactly when it is the opcode of no command. -/
theorem rowOf_eq_none_iff : rowOf opc w = none ↔ ∀ i : Instr, i.opcode ≠ opc := by
  constructor
  · rintro h i rfl
    obtain ⟨j, hj, -⟩ := rowOf_opcode i w
    simp [h] at hj
  · intro h
    cases hr : rowOf opc w with
    | none => rfl
    | some r => exact absurd (opcode_format_of_rowOf hr).1 (h r.2)

/-- The list of 30_encoding R99 against the opcode map. -/
theorem illegalOpcode_eq_isNone : ∀ opc : Byte, illegalOpcode opc.toNat = (rowOf opc 0#32).isNone := by
  decide

/-- The listed opcodes are those of no command (30_encoding R99). -/
theorem illegalOpcode_iff : illegalOpcode opc.toNat = true ↔ ∀ i : Instr, i.opcode ≠ opc := by
  rw [illegalOpcode_eq_isNone, Option.isNone_iff_eq_none, rowOf_eq_none_iff]

/-- A word without a row is a bad opcode (30_encoding R106). -/
theorem decode_of_no_row (h : rowOf (opcField w) w = none) : decode w = .error .badOpcode := by
  simp [decode, h]

/-- A word with a bit set outside its row's fields has reserved bits (30_encoding R106). -/
theorem decode_of_reserved (h : rowOf (opcField w) w = some (f, i)) (hw : w &&& ~~~ f.fieldMask ≠ 0) :
    decode w = .error .reservedBits := by
  simp only [decode, h, if_pos hw]

/-- A word with no such bit is its row's command (30_encoding R106). -/
theorem decode_of_row (h : rowOf (opcField w) w = some (f, i)) (hw : w &&& ~~~ f.fieldMask = 0) :
    decode w = .ok i := by
  simp only [decode, h, hw, ne_eq, not_true_eq_false, if_false]

/-- A word that decodes has its command's row. -/
theorem rowOf_of_decode (h : decode w = .ok i) : rowOf i.opcode w = some (i.format, i) := by
  cases hr : rowOf (opcField w) w with
  | none => simp [decode_of_no_row hr] at h
  | some r =>
    obtain ⟨ho, hf⟩ := opcode_format_of_rowOf hr
    by_cases hw : w &&& ~~~ r.1.fieldMask = 0
    · cases (decode_of_row hr hw).symm.trans h
      rw [ho, hf, hr]
    · simp [decode_of_reserved hr hw] at h

/-- The fields marked 0 in 30_encoding R91 are the bits outside the format's mask. -/
theorem reservedBitsOf_eq (f : Format) : reservedBitsOf f = ~~~ f.fieldMask := by
  cases f <;> rfl

/-- A word with a command's opcode and a reserved bit of its format set (30_encoding R100). -/
theorem decode_of_opcode_reserved (ho : opcField w = i.opcode) (hw : w &&& reservedBitsOf i.format ≠ 0) :
    decode w = .error .reservedBits := by
  obtain ⟨j, hj, -⟩ := rowOf_opcode i w
  exact decode_of_reserved (ho ▸ hj) (reservedBitsOf_eq _ ▸ hw)

/-- A word with a command's opcode and no reserved bit of its format set (30_encoding R100). -/
theorem decode_of_opcode (ho : opcField w = i.opcode) (hw : w &&& reservedBitsOf i.format = 0) :
    ∃ j, decode w = .ok j ∧ j.opcode = i.opcode := by
  obtain ⟨j, hj, hjo⟩ := rowOf_opcode i w
  exact ⟨j, decode_of_row (ho ▸ hj) (reservedBitsOf_eq _ ▸ hw), hjo⟩

/-- The low byte of a word as a number (30_encoding R90). -/
theorem opcField_toNat (w : Word32) : (opcField w).toNat = w.toNat % 256 := by
  simp [opcField]

/-- A word whose low byte R99 lists is a bad opcode. -/
theorem decode_of_illegalOpcode (h : illegalOpcode (w.toNat % 256) = true) : decode w = .error .badOpcode := by
  rw [← opcField_toNat, illegalOpcode_iff] at h
  exact decode_of_no_row (rowOf_eq_none_iff.2 h)

/-- Issuing a bad opcode (30_encoding R99). -/
theorem issue_of_badOpcode (h : decode w = .error .badOpcode) (s : State) : issue w s = raise .badOpcode s := by
  simp [issue, h]

/-- Issuing a word with reserved bits (30_encoding R100). -/
theorem issue_of_reservedBits (h : decode w = .error .reservedBits) (s : State) :
    issue w s = raise .reservedBits s := by
  simp [issue, h]

/-- Settles O3: R99's list is the complement of the opcode map, and a word without a row is refused before its reserved
bits are looked at. -/
theorem illegalOpcodeReportsBadOpcode : Obligations.IllegalOpcodeReportsBadOpcode := by
  refine ⟨fun o ho => ?_, fun w s h => ?_, decode_of_illegalOpcode (by decide), decode_of_illegalOpcode (by decide)⟩
  · have hb : (BitVec.ofNat 8 o).toNat = o := by
      rw [BitVec.toNat_ofNat, Nat.mod_eq_of_lt ho]
    rw [← hb, illegalOpcode_iff]
    simp only [ne_eq, BitVec.toNat_inj]
  · exact ⟨_, issue_of_badOpcode (decode_of_illegalOpcode h) s, failsWith_raised s .badOpcode⟩

/-! ## Illegal field values -/

/-- The outcome is an error of the list, reported with nothing else done. -/
def RaisesOneOf (l : List Cause) (s : State) (o : Out) : Prop := ∃ c ∈ l, o = raise c s

theorem raisesOneOf_raise {l : List Cause} (hc : c ∈ l) (s : State) : RaisesOneOf l s (raise c s) := ⟨c, hc, rfl⟩

theorem raisesOneOf_check {l : List Cause} {bad : Prop} [Decidable bad] {k : Out} (hc : c ∈ l)
    (h : ¬ bad → RaisesOneOf l s k) : RaisesOneOf l s (check bad c s k) := by
  by_cases hb : bad
  · rw [check_fail hb]
    exact raisesOneOf_raise hc s
  · rw [check_pass hb]
    exact h hb

/-- A command whose KS field is no key size gets to no check after that one (30_encoding R97). -/
theorem exec_of_no_keySize (hi : i ∈ [Instr.kexp 3, .kdf 3, .aeste 3, .aestd 3, .aesfe 3, .aesfd 3]) :
    RaisesOneOf [.lenRegRange, .capacity, .keySizeSelect] s (exec i s) := by
  have hkey {bad : Prop} [Decidable bad] :
      RaisesOneOf [.lenRegRange, .capacity, .keySizeSelect] s (check bad .lenRegRange s (raise .keySizeSelect s)) :=
    raisesOneOf_check (by simp) fun _ => raisesOneOf_raise (by simp) s
  have hpayload {bad bad' : Prop} [Decidable bad] [Decidable bad'] :
      RaisesOneOf [.lenRegRange, .capacity, .keySizeSelect] s
        (check bad .lenRegRange s (check bad' .capacity s (raise .keySizeSelect s))) :=
    raisesOneOf_check (by simp) fun _ => raisesOneOf_check (by simp) fun _ => raisesOneOf_raise (by simp) s
  simp only [List.mem_cons, List.not_mem_nil, or_false] at hi
  obtain rfl | rfl | rfl | rfl | rfl | rfl := hi
  · exact hkey
  · exact hkey
  iterate 4 (· exact hpayload)

/-- CAESE and CAESD with SHIFT out of range (30_encoding R97). -/
theorem exec_of_shift_outOfRange (hi : i = .caese x ∨ i = .caesd x) (hx : ¬ (1 ≤ x.toNat ∧ x.toNat ≤ 25)) :
    RaisesOneOf [.lenRegRange, .capacity, .shiftRange] s (exec i s) := by
  have hbad : shiftOutOfRange x := by omega
  have hcaesar {z : Int} : RaisesOneOf [.lenRegRange, .capacity, .shiftRange] s (caesarCommand x z s) :=
    raisesOneOf_check (by simp) fun _ => raisesOneOf_check (by simp) fun _ =>
      raisesOneOf_check (by simp) fun h => absurd hbad h
  obtain rfl | rfl := hi <;> exact hcaesar

/-- ARK and RDRK with RIDX above N of the schedule in RK (30_encoding R97). -/
theorem exec_of_ridx_outOfRange {sch : Schedule} (hi : (i = .ark rd ∧ s.stv = true) ∨ i = .rdrk rd)
    (hr : s.rk = some sch) (hrd : ridxOutOfRange rd sch.size) : exec i s = raise .roundIndex s := by
  obtain ⟨rfl, hs⟩ | rfl := hi
  · obtain ⟨S, hS⟩ := Option.isSome_iff_exists.1 hs
    simp only [exec, execArk, hS, hr, check_fail hrd]
  · simp only [exec, execRdrk, hr, check_fail hrd]

/-- N is at most 14 (30_encoding R97). -/
theorem KeySize.rounds_le (size : KeySize) : size.rounds ≤ 14 := by
  cases size <;> decide

/-- ARK and RDRK with an RIDX that is above every N fail in every state (30_encoding R97). -/
theorem exec_of_ridx_illegal (hi : i = .ark rd ∨ i = .rdrk rd) (hrd : 14 < rd.toNat) :
    ∃ c, exec i s = raise c s := by
  by_cases hst : i = .ark rd ∧ s.aesState = none
  · obtain ⟨rfl, hS⟩ := hst
    exact ⟨_, exec_of_no_state (by simp [ReadsState]) hS⟩
  have hi' : (i = .ark rd ∧ s.stv = true) ∨ i = .rdrk rd :=
    hi.imp_left fun h => ⟨h, Option.isSome_iff_ne_none.2 fun hS => hst ⟨h, hS⟩⟩
  cases hr : s.rk with
  | none => exact ⟨_, exec_of_no_schedule hr (.inr (hi'.symm.imp (fun h => ⟨rd, h⟩) fun h => ⟨⟨rd, h.1⟩, h.2⟩))⟩
  | some sch => exact ⟨_, exec_of_ridx_outOfRange hi' hr (sch.size.rounds_le.trans_lt hrd)⟩

/-- The commands that R97 calls ill-formed: KS = 3, RIDX = 15, SHIFT outside 1 to 25. -/
theorem illFormed_cases (h : i.wellFormed = false) :
    i ∈ [Instr.kexp 3, .kdf 3, .aeste 3, .aestd 3, .aesfe 3, .aesfd 3] ∨
    (∃ rd, (i = .ark rd ∨ i = .rdrk rd) ∧ 14 < rd.toNat) ∨
    (∃ x, (i = .caese x ∨ i = .caesd x) ∧ ¬ (1 ≤ x.toNat ∧ x.toNat ≤ 25)) := by
  have hks {ks : BitVec 2} : decide (ks.toNat ≤ 2) = false → ks = 3 := by
    revert ks
    decide
  cases i with
  | kexp ks | kdf ks | aeste ks | aestd ks | aesfe ks | aesfd ks =>
    obtain rfl := hks h
    exact .inl (by simp)
  | ark rd => exact .inr (.inl ⟨rd, .inl rfl, not_le.1 (of_decide_eq_false h)⟩)
  | rdrk rd => exact .inr (.inl ⟨rd, .inr rfl, not_le.1 (of_decide_eq_false h)⟩)
  | caese x => exact .inr (.inr ⟨x, .inl rfl, by simpa [Instr.wellFormed] using h⟩)
  | caesd x => exact .inr (.inr ⟨x, .inr rfl, by simpa [Instr.wellFormed] using h⟩)
  | _ => cases h

/-- An ill-formed command fails in every state (30_encoding R100). -/
theorem exec_of_illFormed (h : i.wellFormed = false) (s : State) : ∃ c, exec i s = raise c s := by
  obtain hi | ⟨rd, hi, hrd⟩ | ⟨x, hi, hx⟩ := illFormed_cases h
  · obtain ⟨c, -, hc⟩ := exec_of_no_keySize hi
    exact ⟨c, hc⟩
  · exact exec_of_ridx_illegal hi hrd
  · obtain ⟨c, -, hc⟩ := exec_of_shift_outOfRange hi hx
    exact ⟨c, hc⟩

/-- A cause that a command raises is one of its row (60_exceptions R323). -/
theorem mem_causesOf_of_raise (h : exec i s = raise c s) : c ∈ causesOf i := by
  obtain ⟨t, ht, he⟩ := exec_ends i s
  cases ht.symm.trans h
  exact he.mem_causesOf rfl

/-- With lengths and need in range, what is left of a list of causes that begins with the two range causes is the third
(20_memory R72, R73). -/
theorem exec_eq_raise_of_ranges (hl : ¬ LenOut i s) (hn : ¬ NeedOut i s)
    (h : RaisesOneOf [.lenRegRange, .capacity, c] s (exec i s)) : exec i s = raise c s := by
  obtain ⟨c', hc', ho⟩ := h
  have hfree : c' ∉ rangeCauses := fun hr => (exec_checksRanges i s).rangeFree hl hn _ ho _ hr rfl
  simp only [rangeCauses, List.mem_cons, List.not_mem_nil, or_false, not_or] at hc' hfree
  obtain rfl := (hc'.resolve_left hfree.1).resolve_left hfree.2
  exact ho

/-- An illegal field value is reported once the checks before it pass (30_encoding R97). -/
theorem illegalFieldsAreRefused : IllegalFieldsAreRefused := by
  refine ⟨fun i ks s hi hks hin hkey hneed => fails_of_raise (c := .keySizeSelect) ?_ rfl,
    fun i rd s sch hi hs hr hrd => fails_of_raise (c := .roundIndex) ?_ rfl,
    fun i x s hi hx hin hout => fails_of_raise (c := .shiftRange) ?_ rfl⟩
  · subst hks
    refine exec_eq_raise_of_ranges (not_lenOut (fun _ => hin) fun _ => hkey) ?_ (exec_of_no_keySize hi)
    rintro ⟨need, hn, hbig⟩
    exact (hneed need hn).not_gt hbig
  · exact exec_of_ridx_outOfRange (hi.imp_left fun h => ⟨h, hs⟩) hr hrd
  · have hread : readsKey i = false ∧ needOf s.params s.n i = some s.n := by
      obtain rfl | rfl := hi <;> exact ⟨rfl, rfl⟩
    refine exec_eq_raise_of_ranges (not_lenOut (fun _ => hin) ?_) ?_ (exec_of_shift_outOfRange hi hx)
    · simp [hread.1]
    · rw [needOut_iff hread.2]
      exact hout.not_gt

/-- Settles O4: a word with a legal opcode is refused for its reserved bits alone, and the illegal field values are
those of `illFormed_cases`. -/
theorem reservedBitReportsReservedBits : Obligations.ReservedBitReportsReservedBits := by
  refine ⟨fun i w s ho hw => ?_, fun i w => decode_of_opcode, fun i s h => ?_, illegalFieldsAreRefused⟩
  · exact ⟨_, issue_of_reservedBits (decode_of_opcode_reserved ho hw) s, failsWith_raised s .reservedBits⟩
  · obtain ⟨c, hc⟩ := exec_of_illFormed h s
    exact ⟨_, c, mem_causesOf_of_raise hc, hc, failsWith_raised s c⟩

/-! ## The fields as numbers -/

/-- GFMUL's operands are the fields A and B (30_encoding R97). -/
theorem fields_of_decode_gfmul {a b : Byte} (h : decode w = .ok (.gfmul a b)) : a = aField w ∧ b = bField w := by
  cases rowOf_of_decode h
  exact ⟨rfl, rfl⟩

/-- The operand of ARK and RDRK is the field RIDX (30_encoding R97). -/
theorem ridx_of_decode (h : decode w = .ok (.ark rd) ∨ decode w = .ok (.rdrk rd)) : rd = ridxField w := by
  obtain h | h := h <;> cases rowOf_of_decode h <;> rfl

/-- The operand of the commands of format K is the field KS (30_encoding R97). -/
theorem ks_of_decode
    (h : decode w = .ok (.kexp ks) ∨ decode w = .ok (.kdf ks) ∨ decode w = .ok (.aeste ks) ∨
      decode w = .ok (.aestd ks) ∨ decode w = .ok (.aesfe ks) ∨ decode w = .ok (.aesfd ks)) : ks = ksField w := by
  obtain h | h | h | h | h | h := h <;> cases rowOf_of_decode h <;> rfl

/-- The operand of CAESE and CAESD is the field SHIFT (30_encoding R97). -/
theorem shift_of_decode (h : decode w = .ok (.caese x) ∨ decode w = .ok (.caesd x)) : x = shiftField w := by
  obtain h | h := h <;> cases rowOf_of_decode h <;> rfl

/-- The bits of a word from `lo` up, `n` of them, as a number. -/
theorem toNat_extractLsb'_eq (w : Word32) (lo n : Nat) : (w.extractLsb' lo n).toNat = w.toNat / 2 ^ lo % 2 ^ n := by
  rw [BitVec.extractLsb'_toNat, Nat.shiftRight_eq_div_pow]

/-- Settles O5: a decoded operand is a field of the word, which is a quotient and a remainder of the word's number. -/
theorem fieldsAreUnsignedBits : Obligations.FieldsAreUnsignedBits := by
  refine ⟨fun w a b h => ?_, fun w r h => ?_, fun w ks h => ?_, fun w x h => ?_, ⟨rfl, rfl, rfl⟩, ⟨rfl, rfl, rfl⟩,
    ⟨rfl, rfl, rfl⟩, rfl, fun size => Nat.lt_succ_of_le size.rounds_le, illegalFieldsAreRefused⟩
  · obtain ⟨rfl, rfl⟩ := fields_of_decode_gfmul h
    exact ⟨toNat_extractLsb'_eq w 8 8, toNat_extractLsb'_eq w 16 8⟩
  · rw [ridx_of_decode h]
    exact toNat_extractLsb'_eq w 16 4
  · rw [ks_of_decode h]
    exact toNat_extractLsb'_eq w 8 2
  · rw [shift_of_decode h]
    exact toNat_extractLsb'_eq w 16 8

end Sys2Proof.Machine
end

section
/-! The host directives of 30_encoding R105. A directive's byte writes leave one buffer with the bytes set and nothing
else changed (`run_writesFrom`); its last action writes the length register. -/

namespace Sys2Proof.Machine

open Sys2Proof

variable {s t : State} {d : List Byte} {rest : List HostAction}

/-! ## The bytes of a payload in a buffer -/

/-- Write the bytes `d` at indices `i`, `i + 1`, and so on, one after the other. -/
def Memory.setFrom (m : Memory) : (i : Nat) → List Byte → Memory
  | _, [] => m
  | i, v :: d => Memory.setFrom (m.set i v) (i + 1) d

/-- Bytes below the first written index stay. -/
theorem Memory.get?_setFrom_of_lt (m : Memory) {i k : Nat} (h : k < i) (d : List Byte) :
    Memory.get? (Memory.setFrom m i d) k = Memory.get? m k := by
  induction d generalizing m i with
  | nil => rfl
  | cons v d ih =>
    rw [Memory.setFrom, ih _ (by omega), Memory.get?_set, if_neg (by omega)]

/-- Byte `j` of the payload is at index `i + j`. -/
theorem Memory.get?_setFrom (m : Memory) (i : Nat) {j : Nat} {d : List Byte} {v : Byte} (h : d[j]? = some v) :
    Memory.get? (Memory.setFrom m i d) (i + j) = some v := by
  induction d generalizing m i j with
  | nil => simp at h
  | cons u d ih =>
    cases j with
    | zero =>
      rw [Memory.setFrom, Memory.get?_setFrom_of_lt _ (by omega)]
      simpa using h
    | succ j =>
      rw [Memory.setFrom, show i + (j + 1) = i + 1 + j by omega]
      exact ih _ _ (by simpa using h)

/-- The payload read back after `d` is written from index 0, whatever an unlisted index reads as. -/
theorem memRead_setFrom (m : Memory) (d : List Byte) (unlisted : Nat → Byte) :
    memRead (fun j => (Memory.get? (m.setFrom 0 d) j).getD (unlisted j)) 0 d.length = d := by
  refine List.ext_getElem (memRead_length ..) fun j _ hj => ?_
  have hget := Memory.get?_setFrom m 0 (List.getElem?_eq_getElem hj)
  rw [Nat.zero_add] at hget
  simp [memRead, hget]

/-- A length below 2^32 is what its length register holds. -/
theorem toNat_ofNat_length (hd : d.length < 2 ^ 32) : (BitVec.ofNat 32 d.length).toNat = d.length := by
  rw [BitVec.toNat_ofNat, Nat.mod_eq_of_lt hd]

/-- The input payload after `d` is written to IBUF and its length to ILEN (20_memory R63). -/
theorem input_of_loaded (s : State) (hd : d.length < 2 ^ 32) :
    State.input { s with ibuf := s.ibuf.setFrom 0 d, ilen := BitVec.ofNat 32 d.length } = d := by
  simp only [State.input, State.n, toNat_ofNat_length hd]
  exact memRead_setFrom s.ibuf d (Config.unwrittenIbuf s.bufGen)

/-- The key payload after `d` is written to KBUF and its length to KLEN (20_memory R63). -/
theorem key_of_loaded (s : State) (hd : d.length < 2 ^ 32) :
    State.key { s with kbuf := s.kbuf.setFrom 0 d, klen := BitVec.ofNat 32 d.length } = d := by
  simp only [State.key, State.kn, toNat_ofNat_length hd]
  exact memRead_setFrom s.kbuf d (Config.unwrittenKbuf s.bufGen)

/-! ## The runs of the directives -/

/-- One action of a run (20_memory R66). -/
theorem run_succ_of_inbox {a : HostAction} (h : s.inbox = a :: rest) (ha : hostAct a { s with inbox := rest } = .next t)
    (k : Nat) : Host.Core.run core (k + 1) s = Host.Core.run core k t := by
  have hs : core.step s = .next t := (step_of_inbox h).trans ha
  simp only [Host.Core.run, hs]

/-- The buffer that the host writes (20_memory R63). -/
def State.hostBuf (s : State) : HostSpace → Memory
  | .ibuf => s.ibuf
  | .kbuf => s.kbuf

/-- The state with that buffer replaced. -/
def State.withHostBuf (s : State) (m : Memory) : HostSpace → State
  | .ibuf => { s with ibuf := m }
  | .kbuf => { s with kbuf := m }

/-- The capacity of that buffer (20_memory R60). -/
def State.hostCap (s : State) : HostSpace → Nat
  | .ibuf => s.params.ibufCap
  | .kbuf => s.params.kbufCap

/-- One byte write below the capacity (20_memory R63). -/
theorem run_writeBuf {sp : HostSpace} {i : Nat} {v : Byte} (h : s.inbox = .writeBuf sp i v :: rest)
    (hi : i < s.hostCap sp) (k : Nat) :
    Host.Core.run core (k + 1) s =
      Host.Core.run core k { s.withHostBuf ((s.hostBuf sp).set i v) sp with inbox := rest } := by
  refine run_succ_of_inbox h (congrArg Host.Outcome.next ?_) k
  cases sp with
  | ibuf => exact hostSetBuf_ibuf_of_lt (s := { s with inbox := rest }) hi v
  | kbuf => exact hostSetBuf_kbuf_of_lt (s := { s with inbox := rest }) hi v

/-- The byte writes of a directive within the capacity set these bytes and change nothing else (30_encoding R105). -/
theorem run_writesFrom (sp : HostSpace) (i : Nat) (k : Nat) (h : s.inbox = writesFrom sp i d ++ rest)
    (hd : i + d.length ≤ s.hostCap sp) :
    Host.Core.run core (d.length + k) s =
      Host.Core.run core k { s.withHostBuf ((s.hostBuf sp).setFrom i d) sp with inbox := rest } := by
  induction d generalizing s i with
  | nil =>
    obtain rfl : s.inbox = rest := h
    cases sp <;> simp [State.withHostBuf, State.hostBuf, Memory.setFrom]
  | cons v d ih =>
    rw [List.length_cons] at hd
    rw [List.length_cons, show d.length + 1 + k = d.length + k + 1 by omega, run_writeBuf h (by omega), ih (i + 1)]
    · cases sp <;> rfl
    · rfl
    · exact (by omega : i + 1 + d.length ≤ s.hostCap sp).trans_eq (by cases sp <;> rfl)

/-- What `.ibuf` leaves (30_encoding R105). -/
theorem run_ibufDirective (h : s.inbox = ibufDirective d ++ rest) (hd : d.length ≤ s.params.ibufCap) :
    Host.Core.run core (d.length + 1) s =
      .next { s with inbox := rest, ibuf := s.ibuf.setFrom 0 d, ilen := BitVec.ofNat 32 d.length } := by
  rw [ibufDirective, List.append_assoc] at h
  exact (run_writesFrom .ibuf 0 1 h (by simpa [State.hostCap] using hd)).trans (run_succ_of_inbox rfl rfl 0)

/-- What `.kbuf` leaves (30_encoding R105). -/
theorem run_kbufDirective (h : s.inbox = kbufDirective d ++ rest) (hd : d.length ≤ s.params.kbufCap) :
    Host.Core.run core (d.length + 1) s =
      .next { s with inbox := rest, kbuf := s.kbuf.setFrom 0 d, klen := BitVec.ofNat 32 d.length } := by
  rw [kbufDirective, List.append_assoc] at h
  exact (run_writesFrom .kbuf 0 1 h (by simpa [State.hostCap] using hd)).trans (run_succ_of_inbox rfl rfl 0)

/-- The output payload has OLEN bytes (10_state R31). -/
theorem output_length (s : State) : s.output.length = s.olen.toNat := memRead_length ..

/-- Settles O15: a directive's run ends in the state with one buffer and its length register set. -/
theorem directivesLoadPayloads : Obligations.DirectivesLoadPayloads := by
  refine ⟨fun s d rest h hp hd => ⟨_, run_ibufDirective h hd, ?_⟩,
    fun s d rest h hp hd => ⟨_, run_kbufDirective h hd, ?_⟩, fun s n rest => step_of_inbox,
    fun s n rest => step_of_inbox, fun s rest h hp hd => ?_⟩
  · obtain ⟨-, hcap, -⟩ := hp
    exact ⟨input_of_loaded { s with inbox := rest } (hd.trans_lt hcap), rfl, rfl, fun _ => rfl, ⟨rfl, rfl⟩,
      sameOutput_of_fields rfl rfl rfl, rfl, rfl⟩
  · obtain ⟨-, -, -, -, -, hcap, -⟩ := hp
    exact ⟨key_of_loaded { s with inbox := rest } (hd.trans_lt hcap), rfl, rfl, fun _ => rfl, ⟨rfl, rfl⟩,
      sameOutput_of_fields rfl rfl rfl, rfl, rfl⟩
  · rw [← output_length] at hd ⊢
    exact ⟨_, run_ibufDirective h hd, input_of_loaded { s with inbox := rest } (output_length s ▸ s.olen.isLt),
      by simp [output_length], rfl⟩

end Sys2Proof.Machine
end

section
/-! GFMUL and its corner cases (40_gf_multiplier R131). What `gmul` gives for an operand 0 or 1 is read off its loop: a
property of the accumulator and the two operands that every iteration keeps. -/

namespace Sys2Proof.Machine

open Sys2Proof

variable {v : GmulVars} {k : Nat}

/-! ## One iteration of `gmul` -/

/-- An iteration adds `a` where the low bit of `b` is set (40_gf_multiplier R130). -/
theorem gmulStep_acc (v : GmulVars) : (gmulStep v).acc = if v.b.getLsbD 0 then v.acc ^^^ v.a else v.acc := rfl

/-- An iteration moves `b` right by one bit (40_gf_multiplier R130). -/
@[simp] theorem gmulStep_b (v : GmulVars) : (gmulStep v).b = v.b >>> 1 := rfl

/-- Doubling 0 gives 0. -/
theorem gmulStep_a_of_zero (h : v.a = 0#8) : (gmulStep v).a = 0#8 := by
  simp [gmulStep, h]

/-- Doubling a power of `x` below `x^7` needs no reduction. -/
theorem gmulStep_a_of_twoPow (hk : k < 7) (h : v.a = BitVec.twoPow 8 k) :
    (gmulStep v).a = BitVec.twoPow 8 (k + 1) := by
  simp only [gmulStep, h]
  interval_cases k <;> rfl

/-- A byte is its low bit and the byte without it. -/
theorem eq_low_xor_rest (b : Byte) : b = (if b.getLsbD 0 then 1#8 else 0#8) ^^^ b >>> 1 <<< 1 := by
  ext j hj
  cases j with
  | zero => cases hb : b.getLsbD 0 <;> simp_all
  | succ j => cases b.getLsbD 0 <;> simp [Nat.add_comm 1 j, hj]

/-- The low bit of a byte moved left by `k` stands for `x^k`. -/
theorem shiftLeft_eq_low_xor_rest (b : Byte) (k : Nat) :
    b <<< k = (if b.getLsbD 0 then BitVec.twoPow 8 k else 0#8) ^^^ b >>> 1 <<< (k + 1) := by
  conv_lhs => rw [eq_low_xor_rest b]
  rw [BitVec.shiftLeft_xor_distrib, Nat.add_comm, BitVec.shiftLeft_add]
  cases b.getLsbD 0 <;> simp [BitVec.twoPow]

/-- While `a` is `x^k`, an iteration moves the term of the low bit of `b` to the accumulator. -/
theorem gmulStep_acc_xor_b (h : v.a = BitVec.twoPow 8 k) :
    (gmulStep v).acc ^^^ (gmulStep v).b <<< (k + 1) = v.acc ^^^ v.b <<< k := by
  rw [gmulStep_acc, gmulStep_b, h, shiftLeft_eq_low_xor_rest v.b k]
  cases v.b.getLsbD 0 <;> simp [BitVec.xor_assoc]

/-! ## The operands 0 and 1 -/

/-- With `a = 0` nothing but zeros is added. -/
theorem gmul_zero_left (b : Byte) : gmul 0#8 b = 0#8 := by
  have hloop := Function.Iterate.rec (fun v : GmulVars => v.acc = 0#8 ∧ v.a = 0#8)
    (f := gmulStep) (a := ⟨0#8, 0#8, b⟩)
    ⟨rfl, rfl⟩ (fun v ⟨hacc, ha⟩ => ⟨by simp [gmulStep_acc, hacc, ha], gmulStep_a_of_zero ha⟩) 8
  exact hloop.1

/-- With `b = 0` nothing is added. -/
theorem gmul_zero_right (a : Byte) : gmul a 0#8 = 0#8 := by
  have hloop := Function.Iterate.rec (fun v : GmulVars => v.acc = 0#8 ∧ v.b = 0#8)
    (f := gmulStep) (a := ⟨0#8, a, 0#8⟩)
    ⟨rfl, rfl⟩ (fun v ⟨hacc, hb⟩ => ⟨by simp [gmulStep_acc, hacc, hb], by simp [hb]⟩) 8
  exact hloop.1

/-- After `k` iterations of `gmul 1 b` the accumulator and what is left of `b` make up `b`. -/
theorem gmulStep_iterate_one (b : Byte) (hk : k ≤ 8) :
    (gmulStep^[k] ⟨0#8, 1#8, b⟩).acc ^^^ (gmulStep^[k] ⟨0#8, 1#8, b⟩).b <<< k = b ∧
    (k < 8 → (gmulStep^[k] ⟨0#8, 1#8, b⟩).a = BitVec.twoPow 8 k) := by
  induction k with
  | zero => exact ⟨by simp, fun _ => rfl⟩
  | succ k ih =>
    obtain ⟨hb, ha⟩ := ih (by omega)
    have hpow := ha (by omega)
    rw [Function.iterate_succ_apply']
    exact ⟨(gmulStep_acc_xor_b hpow).trans hb, fun h => gmulStep_a_of_twoPow (by omega) hpow⟩

/-- With `a = 1` each set bit of `b` is added at its own place. -/
theorem gmul_one_left (b : Byte) : gmul 1#8 b = b := by
  obtain ⟨h, -⟩ := gmulStep_iterate_one b (k := 8) (by omega)
  rwa [BitVec.shiftLeft_eq_zero (by omega), BitVec.xor_zero] at h

/-! ## The command -/

/-- A command that writes RES and ends well leaves everything else. -/
theorem frame_of_wroteRes (v : Byte) (s : State) :
    let t := State.completed { s with res := v } false
    Succeeded false t ∧ SameOutput s t ∧ SameSession s t ∧ SameInputs s t ∧ SameWorld s t :=
  ⟨rfl, sameOutput_of_fields rfl rfl rfl, ⟨rfl, rfl⟩, ⟨rfl, rfl, fun _ => rfl, fun _ => rfl⟩, rfl, rfl, rfl⟩

/-- GFMUL makes no check (40_gf_multiplier R131). -/
theorem exec_gfmul (a b : Byte) (s : State) :
    exec (.gfmul a b) s = .next (State.completed { s with res := gmul a b } false) := rfl

/-- The reserved bits of format G are bits 31:24 (30_encoding R91). -/
theorem and_reservedBitsOf_G_ne_zero {w : Word32} (h : w.extractLsb' 24 8 ≠ 0) : w &&& reservedBitsOf .G ≠ 0 := by
  intro h0
  have hmask : (reservedBitsOf .G).extractLsb' 24 8 = BitVec.allOnes 8 := rfl
  refine h ?_
  calc w.extractLsb' 24 8 = (w &&& reservedBitsOf .G).extractLsb' 24 8 := by
        rw [BitVec.extractLsb'_and, hmask, BitVec.and_allOnes]
    _ = 0 := by rw [h0]; rfl

/-- GFMUL's opcode with a bit among 31:24 set (40_gf_multiplier R131). -/
theorem issue_gfmul_of_reservedBits {w : Word32} (ho : opcField w = 0x01#8) (hw : w.extractLsb' 24 8 ≠ 0)
    (s : State) : issue w s = raise .reservedBits s :=
  issue_of_reservedBits
    (decode_of_opcode_reserved (i := .gfmul 0#8 0#8) ho (and_reservedBitsOf_G_ne_zero hw)) s

/-- Settles O23: GFMUL makes no check and writes RES alone, its reserved bits are those of format G, and the corner
cases are the laws of `gmul` for an operand 0 or 1. -/
theorem gfmulWritesTheProduct : Obligations.GfmulWritesTheProduct := by
  refine ⟨⟨rfl, rfl⟩, fun a b s => ⟨_, exec_gfmul a b s, rfl, frame_of_wroteRes _ s⟩, fun w s ho hw => ?_,
    fun v => ⟨gmul_zero_left v, gmul_zero_right v, gmul_one_left v⟩, by decide, by decide, by decide⟩
  exact ⟨_, issue_gfmul_of_reservedBits ho hw s, failsWith_raised s .reservedBits⟩

end Sys2Proof.Machine
end

section
/-! `gmul` as the product of a field (40_gf_multiplier R130, R132): it is linear in each operand, so that an equation
between products need only be checked at the powers of `x`; with that it is commutative and associative, and an
inverse is unique. -/

namespace Sys2Proof.Machine

open Sys2Proof

variable {a b c : Byte} {f g : Byte → Byte} {k : Nat}

/-! ## Linear maps on bytes -/

/-- The map respects XOR. -/
def XorLinear (f : Byte → Byte) : Prop := ∀ b c, f (b ^^^ c) = f b ^^^ f c

theorem XorLinear.map_zero (hf : XorLinear f) : f 0#8 = 0#8 := by
  simpa using hf 0#8 0#8

theorem XorLinear.comp (hf : XorLinear f) (hg : XorLinear g) : XorLinear fun b => f (g b) := fun b c =>
  (congrArg f (hg b c)).trans (hf _ _)

theorem XorLinear.xor (hf : XorLinear f) (hg : XorLinear g) : XorLinear fun b => f b ^^^ g b := fun b c => by
  dsimp only
  rw [hf, hg]
  ac_rfl

theorem XorLinear.iterate (hf : XorLinear f) : ∀ k, XorLinear f^[k]
  | 0 => fun _ _ => rfl
  | k + 1 => (hf.iterate k).comp hf

/-- The byte with the bits of the list set. -/
def ofBits (l : List Nat) : Byte := l.foldr (fun k b => BitVec.twoPow 8 k ^^^ b) 0#8

/-- A byte is the XOR of the powers of `x` at its set bits. -/
theorem ofBits_setBits : ∀ b : Byte, ofBits ((List.range 8).filter b.getLsbD) = b := by
  decide

/-- Linear maps that agree at the powers of `x` agree everywhere. -/
theorem XorLinear.ext (hf : XorLinear f) (hg : XorLinear g)
    (h : ∀ k < 8, f (BitVec.twoPow 8 k) = g (BitVec.twoPow 8 k)) (b : Byte) : f b = g b := by
  have hbits : ∀ l : List Nat, (∀ k ∈ l, k < 8) → f (ofBits l) = g (ofBits l) := by
    intro l hl
    induction l with
    | nil => exact hf.map_zero.trans hg.map_zero.symm
    | cons k l ih =>
      obtain ⟨hk, hl⟩ := List.forall_mem_cons.1 hl
      exact (hf _ _).trans ((congrArg₂ _ (h k hk) (ih hl)).trans (hg _ _).symm)
  rw [← ofBits_setBits b]
  exact hbits _ fun k hk => List.mem_range.1 (List.mem_filter.1 hk).1

/-- A choice of `a` or 0 is linear in the bit that chooses. -/
theorem ite_xor (x y : Bool) (a : Byte) :
    (if x ^^ y then a else 0#8) = (if x then a else 0#8) ^^^ if y then a else 0#8 := by
  cases x <;> cases y <;> simp

/-! ## Doubling -/

/-- What an iteration of `gmul` makes of `a`, the product by `x` (40_gf_multiplier R130). -/
def double (a : Byte) : Byte := (gmulStep ⟨0#8, a, 0#8⟩).a

theorem gmulStep_eq (v : GmulVars) :
    gmulStep v = ⟨v.acc ^^^ (if v.b.getLsbD 0 then v.a else 0#8), double v.a, v.b >>> 1⟩ := by
  have hacc : (gmulStep v).acc = v.acc ^^^ if v.b.getLsbD 0 then v.a else 0#8 := by
    rw [gmulStep_acc]
    cases v.b.getLsbD 0 <;> simp
  rw [← hacc]
  rfl

/-- Doubling is a shift, and a reduction when the top bit is set. -/
theorem double_eq : ∀ a : Byte, double a = a <<< 1 ^^^ if a.msb then 0x1B#8 else 0#8 := by
  decide

theorem double_linear : XorLinear double := fun b c => by
  simp only [double_eq, BitVec.msb_xor, BitVec.shiftLeft_xor_distrib, ite_xor]
  ac_rfl

theorem double_twoPow (hk : k < 7) : double (BitVec.twoPow 8 k) = BitVec.twoPow 8 (k + 1) :=
  gmulStep_a_of_twoPow (v := ⟨0#8, _, 0#8⟩) hk rfl

/-- Below `x^8` no reduction happens. -/
theorem double_iterate_one (hk : k < 8) : double^[k] 1#8 = BitVec.twoPow 8 k := by
  induction k with
  | zero => rfl
  | succ k ih => rw [Function.iterate_succ_apply', ih (by omega), double_twoPow (by omega)]

/-! ## Linearity of the product -/

/-- An iteration is linear in the accumulator and `b` together. -/
theorem gmulStep_xor (a x y b c : Byte) :
    gmulStep ⟨x ^^^ y, a, b ^^^ c⟩ =
      ⟨(gmulStep ⟨x, a, b⟩).acc ^^^ (gmulStep ⟨y, a, c⟩).acc, double a, b >>> 1 ^^^ c >>> 1⟩ := by
  simp only [gmulStep_eq, BitVec.ushiftRight_xor_distrib, BitVec.getLsbD_xor, ite_xor, GmulVars.mk.injEq, and_true]
  ac_rfl

theorem gmulStep_iterate_xor (n : Nat) (a x y b c : Byte) :
    (gmulStep^[n] ⟨x ^^^ y, a, b ^^^ c⟩).acc =
      (gmulStep^[n] ⟨x, a, b⟩).acc ^^^ (gmulStep^[n] ⟨y, a, c⟩).acc := by
  induction n generalizing a x y b c with
  | zero => rfl
  | succ n ih =>
    simp only [Function.iterate_succ_apply, gmulStep_xor, ih]
    rfl

/-- The product is linear in the right operand (40_gf_multiplier R132). -/
theorem gmul_linear_right (a : Byte) : XorLinear (gmul a) := gmulStep_iterate_xor 8 a 0#8 0#8

/-- With nothing left of `b` the accumulator stays. -/
theorem gmulStep_iterate_zero (n : Nat) (a x : Byte) : (gmulStep^[n] ⟨x, a, 0#8⟩).acc = x := by
  induction n generalizing a with
  | zero => rfl
  | succ n ih =>
    rw [Function.iterate_succ_apply, gmulStep_eq]
    simpa using ih (double a)

theorem twoPow_succ_shiftRight : ∀ k < 7, BitVec.twoPow 8 (k + 1) >>> 1 = BitVec.twoPow 8 k := by
  decide

/-- A power of `x` in `b` waits for its turn while `a` is doubled. -/
theorem gmulStep_iterate_twoPow {n : Nat} (hn : k < n) (hk : k < 8) (a x : Byte) :
    (gmulStep^[n] ⟨x, a, BitVec.twoPow 8 k⟩).acc = x ^^^ double^[k] a := by
  obtain ⟨n, rfl⟩ : ∃ m, n = m + 1 := ⟨n - 1, by omega⟩
  rw [Function.iterate_succ_apply, gmulStep_eq]
  induction k generalizing a n with
  | zero => simpa [BitVec.twoPow_zero] using gmulStep_iterate_zero n (double a) (x ^^^ a)
  | succ k ih =>
    obtain ⟨n, rfl⟩ : ∃ m, n = m + 1 := ⟨n - 1, by omega⟩
    simpa [twoPow_succ_shiftRight k (by omega), gmulStep_eq] using ih (by omega) (double a) n (by omega)

/-- The product by a power of `x` is a repeated doubling. -/
theorem gmul_twoPow_right (a : Byte) (hk : k < 8) : gmul a (BitVec.twoPow 8 k) = double^[k] a := by
  rw [gmul, gmulStep_iterate_twoPow hk hk, BitVec.zero_xor]

/-- The product is linear in the left operand (40_gf_multiplier R132). -/
theorem gmul_linear_left (c : Byte) : XorLinear fun a => gmul a c := fun a b =>
  (gmul_linear_right (a ^^^ b)).ext ((gmul_linear_right a).xor (gmul_linear_right b))
    (fun k hk => by simp only [gmul_twoPow_right _ hk, double_linear.iterate k a b]) c

/-! ## The laws of the field -/

/-- 1 is the power of `x` with no doubling (40_gf_multiplier R132). -/
theorem gmul_one_right (a : Byte) : gmul a 1#8 = a := gmul_twoPow_right a (k := 0) (by omega)

/-- The product of two powers of `x` is the power with the sum of the exponents, reduced. -/
theorem gmul_twoPow_twoPow {j k : Nat} (hj : j < 8) (hk : k < 8) :
    gmul (BitVec.twoPow 8 j) (BitVec.twoPow 8 k) = double^[k + j] 1#8 := by
  rw [gmul_twoPow_right _ hk, ← double_iterate_one hj, Function.iterate_add_apply]

/-- Both sides are linear in each operand (40_gf_multiplier R132). -/
theorem gmul_comm (a b : Byte) : gmul a b = gmul b a :=
  (gmul_linear_right a).ext (gmul_linear_left a)
    (fun k hk => (gmul_linear_left _).ext (gmul_linear_right _)
      (fun j hj => by rw [gmul_twoPow_twoPow hj hk, gmul_twoPow_twoPow hk hj, Nat.add_comm]) a) b

/-- Doubling an operand doubles the product. -/
theorem gmul_double_left (a b : Byte) : gmul (double a) b = double (gmul a b) :=
  (gmul_linear_right _).ext (double_linear.comp (gmul_linear_right a))
    (fun k hk => by
      rw [gmul_twoPow_right _ hk, gmul_twoPow_right _ hk, ← Function.iterate_succ_apply,
        Function.iterate_succ_apply']) b

/-- Both sides are linear in `c`, and doubling moves out of a product (40_gf_multiplier R132). -/
theorem gmul_assoc (a b c : Byte) : gmul (gmul a b) c = gmul a (gmul b c) := by
  have hdouble : Function.Semiconj (gmul a) double double := fun b => by
    rw [gmul_comm, gmul_double_left, gmul_comm]
  exact (gmul_linear_right _).ext ((gmul_linear_right a).comp (gmul_linear_right b))
    (fun k hk => by
      rw [gmul_twoPow_right _ hk, gmul_twoPow_right _ hk]
      exact (hdouble.iterate_right k b).symm) c

/-- Two inverses of a byte are one (40_gf_multiplier R132). -/
theorem eq_of_gmul_eq_one (hb : gmul a b = 1#8) (hc : gmul a c = 1#8) : c = b :=
  calc c = gmul (gmul b a) c := by rw [gmul_comm b a, hb, gmul_one_left]
    _ = b := by rw [gmul_assoc, hc, gmul_one_right]

/-- `ginv` finds the inverse (40_gf_multiplier R132). -/
theorem ginv_eq_of_gmul_eq_one (h : gmul a b = 1#8) : ginv a = b := by
  unfold ginv
  cases hf : ((List.range 256).map (BitVec.ofNat 8)).find? fun b => gmul a b = 1#8 with
  | none =>
    have hb : b ∈ (List.range 256).map (BitVec.ofNat 8) :=
      List.mem_map.2 ⟨b.toNat, List.mem_range.2 b.isLt, BitVec.ofNat_toNat ..⟩
    exact absurd h (by simpa using List.find?_eq_none.1 hf b hb)
  | some c => exact eq_of_gmul_eq_one h (by simpa using List.find?_some hf)

/-- 0 has no inverse and `ginv` gives 0 (40_gf_multiplier R132). -/
theorem ginv_zero : ginv 0#8 = 0#8 := by
  unfold ginv
  rw [List.find?_eq_none.2 fun b _ => by simp [gmul_zero_left]]
  rfl

end Sys2Proof.Machine
end

section
/-! The AES core transform (41_aes_core_transform): the two substitution tables, and what each command of the unit makes
of STATE, element by element. -/

namespace Sys2Proof.Machine

open Sys2Proof

variable {s : State} {i : Instr} {S : Matrix}

/-! ## The substitution tables -/

/-- The affine part of the map that generates SBOX (41_aes_core_transform R155). -/
def affineMap (b : Byte) : Byte :=
  b ^^^ b.rotateLeft 1 ^^^ b.rotateLeft 2 ^^^ b.rotateLeft 3 ^^^ b.rotateLeft 4 ^^^ 0x63#8

theorem affineInverse_eq (v : Byte) : affineInverse v = affineMap (ginv v) := rfl

/-- The inverse of `affineMap`. -/
def affineUnmap (b : Byte) : Byte := b.rotateLeft 1 ^^^ b.rotateLeft 3 ^^^ b.rotateLeft 6 ^^^ 0x05#8

theorem affineMap_affineUnmap : ∀ b : Byte, affineMap (affineUnmap b) = b := by
  decide

/-- The affine part taken off, SBOX holds the inverses. -/
theorem gmul_affineUnmap_sbox : ∀ v : Byte, v ≠ 0#8 → gmul v (affineUnmap (sbox v)) = 1#8 := by
  decide +kernel

theorem ginv_eq_affineUnmap_sbox (v : Byte) : ginv v = affineUnmap (sbox v) := by
  by_cases hv : v = 0#8
  · subst hv
    exact ginv_zero
  · exact ginv_eq_of_gmul_eq_one (gmul_affineUnmap_sbox v hv)

/-- 41_aes_core_transform R142. -/
theorem invSbox_sbox : ∀ v : Byte, invSbox (sbox v) = v := by
  decide

/-- 41_aes_core_transform R142. -/
theorem sbox_invSbox : ∀ v : Byte, sbox (invSbox v) = v := by
  decide

/-- 41_aes_core_transform R155. -/
theorem sbox_ne : ∀ v : Byte, sbox v ≠ v ∧ sbox v ≠ v ^^^ 0xFF#8 := by
  decide

/-- Settles O27: the tables are compared entry by entry; of the affine map, `ginv` is taken from the uniqueness of
inverses. -/
theorem sboxIsTheAffineInverseMap : Obligations.SboxIsTheAffineInverseMap := by
  refine ⟨fun v => ⟨invSbox_sbox v, sbox_invSbox v⟩, fun v => ?_, sbox_ne, rfl, rfl, rfl⟩
  rw [affineInverse_eq, ginv_eq_affineUnmap_sbox, affineMap_affineUnmap]

/-! ## The elements of a matrix -/

@[simp] theorem get_ofFn {α : Type} (f : Fin 4 → α) : ∀ i, (Quad.ofFn f).get i = f i
  | 0 | 1 | 2 | 3 => rfl

@[simp] theorem Matrix.at_ofFn (f : Fin 4 → Fin 4 → Byte) (r c : Fin 4) : (Matrix.ofFn f).at r c = f r c := by
  simp [Matrix.at, Matrix.ofFn]

@[simp] theorem at_toState (b : List Byte) (r c : Fin 4) : (toState b).at r c = b.getD (r.val + 4 * c.val) 0#8 :=
  Matrix.at_ofFn ..

@[simp] theorem at_subBytes (S : Matrix) (r c : Fin 4) : (subBytes S).at r c = sbox (S.at r c) := Matrix.at_ofFn ..

@[simp] theorem at_invSubBytes (S : Matrix) (r c : Fin 4) : (invSubBytes S).at r c = invSbox (S.at r c) :=
  Matrix.at_ofFn ..

@[simp] theorem at_shiftRows (S : Matrix) (r c : Fin 4) : (shiftRows S).at r c = S.at r (c + r) := Matrix.at_ofFn ..

@[simp] theorem at_invShiftRows (S : Matrix) (r c : Fin 4) : (invShiftRows S).at r c = S.at r (c - r) :=
  Matrix.at_ofFn ..

@[simp] theorem at_mixWith (k : Quad Byte) (S : Matrix) (r c : Fin 4) :
    (mixWith k S).at r c =
      gmul (mixMatrix k r 0) (S.at 0 c) ^^^ gmul (mixMatrix k r 1) (S.at 1 c) ^^^
        gmul (mixMatrix k r 2) (S.at 2 c) ^^^ gmul (mixMatrix k r 3) (S.at 3 c) :=
  Matrix.at_ofFn ..

@[simp] theorem at_addRoundKey (S K : Matrix) (r c : Fin 4) : (addRoundKey S K).at r c = S.at r c ^^^ K.at r c :=
  Matrix.at_ofFn ..

@[simp] theorem at_roundKey (W : List KeyWord) (rd : Nat) (r c : Fin 4) :
    (roundKey W rd).at r c = (wordAt W (4 * rd + c.val)).get r :=
  Matrix.at_ofFn ..

/-- Byte `r + 4 c` of a stored block (10_state R23). -/
theorem fromState_getElem? (S : Matrix) : ∀ r c : Fin 4, (fromState S)[r.val + 4 * c.val]? = some (S.at r c) := by
  intro r c
  fin_cases r <;> fin_cases c <;> rfl

/-! ## The commands -/

/-- A transform with STATE (41_aes_core_transform R140). -/
theorem transform_of_state (f : Matrix → Matrix) (h : s.aesState = some S) :
    transform f s = .next (State.completed { s with aesState := some (f S) } false) := by
  simp [transform, h]

/-- STST with STATE (41_aes_core_transform R144). -/
theorem exec_stst_of_state (h : s.aesState = some S) :
    exec .stst s = .next ((deliver (fromState S) s).completed false) := by
  simp [exec, execStst, h, ok, okWarn]

/-- ARK with STATE and a schedule (41_aes_core_transform R153). -/
theorem exec_ark_of_state_schedule {sch : Schedule} (rd : BitVec 4) (h : s.aesState = some S)
    (hr : s.rk = some sch) :
    exec (.ark rd) s =
      check (ridxOutOfRange rd sch.size) .roundIndex s
        (ok { s with aesState := some (addRoundKey S (roundKey sch.words rd.toNat)) }) := by
  simp only [exec, execArk, h, hr]

/-- The check of STV that the commands that read STATE begin with (41_aes_core_transform R140). -/
theorem checked_state {rest : List (Prop × Word32)} {P : State → Prop} (hi : ReadsState i)
    (h : ∀ S, s.aesState = some S → ∃ t, exec i s = .next t ∧ Checked s rest P t) :
    ∃ t, exec i s = .next t ∧ Checked s ((s.stv = false, 0x045#32) :: rest) P t := by
  cases hS : s.aesState with
  | none =>
    rw [exec_of_no_state hi hS]
    exact checked_raise (by simp [State.stv, hS]) rfl
  | some S => exact checked_skip (by simp [State.stv, hS]) (h S hS)

/-- The command of a transform does to the elements what the transform does (41_aes_core_transform R140). -/
theorem transformsBy_of_transform {g : Matrix → Matrix} {f : Matrix → Fin 4 → Fin 4 → Byte} (hr : ReadsState i)
    (hi : exec i = transform g) (hg : ∀ S r c, (g S).at r c = f S r c) : TransformsBy i f :=
  fun s => checked_state hr fun S hS =>
    ⟨_, (congrFun hi s).trans (transform_of_state g hS), S, g S, hS, rfl, hg S, changesStateOnly_completed _ s⟩

/-- Settles O26: the elements of `subBytes` and `invSubBytes`. -/
theorem subbAndIsubbSubstituteEachByte : Obligations.SubbAndIsubbSubstituteEachByte :=
  ⟨⟨rfl, rfl⟩, ⟨rfl, rfl⟩, transformsBy_of_transform (by simp [ReadsState]) rfl at_subBytes,
    transformsBy_of_transform (by simp [ReadsState]) rfl at_invSubBytes⟩

/-- The difference of column numbers is modulo 4 (41_aes_core_transform R148). -/
theorem column_sub : ∀ c r : Fin 4, c - r = Fin.ofNat 4 (c.val + 4 - r.val) := by
  decide

/-- Settles O28: the elements of `shiftRows` and `invShiftRows`. -/
theorem shrowAndIshrowRotateRows : Obligations.ShrowAndIshrowRotateRows :=
  ⟨⟨rfl, rfl⟩, ⟨rfl, rfl⟩, transformsBy_of_transform (by simp [ReadsState]) rfl at_shiftRows,
    transformsBy_of_transform (by simp [ReadsState]) rfl fun S r c => by rw [at_invShiftRows, column_sub]⟩

/-- Settles O29: the rows of the two mixing matrices, with the products by 1 left out. -/
theorem mixcAndImixcMultiplyColumns : Obligations.MixcAndImixcMultiplyColumns := by
  refine ⟨⟨rfl, rfl⟩, ⟨rfl, rfl⟩,
    transformsBy_of_transform (g := mixColumns) (by simp [ReadsState]) rfl fun S r c => ?_,
    transformsBy_of_transform (g := invMixColumns) (by simp [ReadsState]) rfl fun S r c => ?_⟩
  · rw [mixColumns, at_mixWith]
    match r with
    | 0 | 1 | 2 | 3 => simp [mixMatrix, fwd, Quad.get, gmul_one_left, -zero_sub]
  · rw [invMixColumns, at_mixWith]
    match r with
    | 0 | 1 | 2 | 3 => rfl

/-- Settles O25: byte `r + 4 c` of the block is element [r][c], in `toState` and in `fromState`. -/
theorem ldstAndStstMoveABlock : Obligations.LdstAndStstMoveABlock := by
  refine ⟨⟨rfl, rfl⟩, ⟨rfl, rfl⟩, fun s => ?_, fun s => checked_state (.inl rfl) fun S hS => ?_⟩
  · refine checked_of_check Iff.rfl rfl fun _ => checked_of_check Iff.rfl rfl fun hn =>
      ⟨_, rfl, toState s.input, rfl, fun r c => ?_, changesStateOnly_completed _ s⟩
    have hj : r.val + 4 * c.val < s.n := by omega
    simp [List.getD, input_getElem? hj]
  · obtain ⟨hok, ⟨hlen, hbytes⟩, hkeeps⟩ := deliversOnly_completed false (fromState S) s
    exact ⟨_, exec_stst_of_state hS, S, hS, hlen, fun r c => hbytes _ _ (fromState_getElem? S r c), hok, hkeeps⟩

/-- Settles O30: the three checks in order, and the elements of `addRoundKey` and `roundKey`. -/
theorem arkAddsTheRoundKey : Obligations.ArkAddsTheRoundKey := by
  refine ⟨⟨rfl, rfl⟩, ⟨rfl, rfl⟩, ⟨rfl, rfl⟩, fun rd s => checked_state (by simp [ReadsState]) fun S hS => ?_⟩
  cases hr : s.rk with
  | none =>
    rw [exec_of_no_schedule hr (.inr (.inr ⟨⟨rd, rfl⟩, by simp [State.stv, hS]⟩))]
    exact checked_raise (by simp [State.rkv, hr]) rfl
  | some sch =>
    refine checked_skip (by simp [State.rkv, hr]) ?_
    rw [exec_ark_of_state_schedule rd hS hr]
    refine checked_of_check (by simp) rfl fun _ =>
      ⟨_, rfl, S, addRoundKey S (roundKey sch.words rd.toNat), sch, hS, rfl, hr, fun r c => ?_,
        changesStateOnly_completed _ s⟩
    rw [at_addRoundKey, at_roundKey]

end Sys2Proof.Machine
end

section
/-! The AES key schedule (42_aes_key_schedule): each word of an expansion from the words before it, and the
commands that open, read and close a session. -/

namespace Sys2Proof.Machine

open Sys2Proof

variable {s : State} {size : KeySize} {ks : BitVec 2} {k : List Byte} {W : List KeyWord} {p v : KeyWord} {rc : Byte}
  {nk i : Nat}

/-! ## The words of an expansion -/

/-- Word i of a key is its bytes 4 i to 4 i + 3 (42_aes_key_schedule R170). -/
theorem keyWords_getElem? : ∀ (k : List Byte) (i : Nat) (h : 4 * i + 3 < k.length),
    (keyWords k)[i]? = some ⟨k[4 * i], k[4 * i + 1], k[4 * i + 2], k[4 * i + 3]⟩
  | _ :: _ :: _ :: _ :: _, 0, _ => rfl
  | _ :: _ :: _ :: _ :: rest, i + 1, h => keyWords_getElem? rest i (by simp only [List.length_cons] at h; omega)

/-- An expansion begins with the words that it starts from. -/
theorem prefix_expand (nk n : Nat) (W : List KeyWord) : W <+: (fun W => W ++ [nextWord nk W])^[n] W := by
  induction n with
  | zero => exact List.prefix_rfl
  | succ n ih =>
    rw [Function.iterate_succ_apply']
    exact ih.trans (List.prefix_append ..)

/-- Each word that an expansion adds is the next one after those before it. -/
theorem getElem?_expand {n : Nat} (h0 : W.length ≤ i) (hi : i < W.length + n) :
    ((fun W => W ++ [nextWord nk W])^[n] W)[i]? =
      some (nextWord nk (((fun W => W ++ [nextWord nk W])^[n] W).take i)) := by
  induction n with
  | zero => omega
  | succ n ih =>
    have hlen := length_expand nk n W
    rw [Function.iterate_succ_apply', List.take_append_of_le_length (by omega)]
    obtain h | rfl : i < W.length + n ∨ i = W.length + n := by omega
    · rw [List.getElem?_append_left (by omega), ih h]
    · rw [← hlen, List.take_length, List.getElem?_concat_length]

/-- The first words are the key's (42_aes_key_schedule R170). -/
theorem expandKey_getElem?_of_lt (hk : k.length = size.bytes) (hi : i < size.bytes / 4) :
    (expandKey size k)[i]? = (keyWords k)[i]? := by
  have hlen : i < (keyWords k).length := by rwa [length_keyWords, hk]
  rw [List.getElem?_eq_getElem hlen]
  exact List.prefix_iff_getElem?.1 (prefix_expand ..) i hlen

/-- Each later word is the next one after those before it (42_aes_key_schedule R170). -/
theorem expandKey_getElem?_of_le (hk : k.length = size.bytes) (h0 : size.bytes / 4 ≤ i)
    (hi : i < 4 * (size.rounds + 1)) :
    (expandKey size k)[i]? = some (nextWord (size.bytes / 4) ((expandKey size k).take i)) := by
  have hlen : (keyWords k).length = size.bytes / 4 := by rw [length_keyWords, hk]
  exact getElem?_expand (by rwa [hlen]) (by omega)

/-! ## The three branches of the recurrence

`p` is the word before word i, `v` the word Nk before it. -/

section

variable (hi : W.length = i) (hp : wordAt W (i - 1) = p) (hv : wordAt W (i - nk) = v)

include hi hp hv

/-- A word whose number is a multiple of Nk: rotate, substitute, add the round constant. -/
theorem nextWord_of_mod_eq_zero (h : i % nk = 0) (hrc : rcon (i / nk - 1) = rc) :
    nextWord nk W = ⟨sbox p.x1 ^^^ rc ^^^ v.x0, sbox p.x2 ^^^ v.x1, sbox p.x3 ^^^ v.x2, sbox p.x0 ^^^ v.x3⟩ := by
  simp only [nextWord, hi, hp, hv, if_pos h, xorRcon, hrc, subWord, rotWord, xorWord]

/-- The word in the middle of the eight of a 256-bit key: substitute alone. -/
theorem nextWord_of_mod_eq_four (h : i % nk ≠ 0) (h4 : nk = 8 ∧ i % nk = 4) :
    nextWord nk W = ⟨sbox p.x0 ^^^ v.x0, sbox p.x1 ^^^ v.x1, sbox p.x2 ^^^ v.x2, sbox p.x3 ^^^ v.x3⟩ := by
  simp only [nextWord, hi, hp, hv, if_neg h, if_pos h4, subWord, xorWord]

/-- Every other word: the one before it as it is. -/
theorem nextWord_of_mod_ne (h : i % nk ≠ 0) (h4 : ¬ (nk = 8 ∧ i % nk = 4)) :
    nextWord nk W = ⟨p.x0 ^^^ v.x0, p.x1 ^^^ v.x1, p.x2 ^^^ v.x2, p.x3 ^^^ v.x3⟩ := by
  simp only [nextWord, hi, hp, hv, if_neg h, if_neg h4, xorWord]

end

/-- A word among the first i. -/
theorem wordAt_take {j : Nat} (h : j < W.length) (hj : j < i) : wordAt (W.take i) j = W[j] := by
  simp [wordAt, List.getD, hj, h]

theorem rcon_of_lt (h : i < rconTable.length) : rcon i = rconTable[i] := by
  simp [rcon, List.getD, h]

/-- No expansion needs more than the ten round constants (42_aes_key_schedule R171). -/
theorem rcon_index_lt (hi : i < 4 * (size.rounds + 1)) : i / (size.bytes / 4) - 1 < rconTable.length := by
  have hlen : rconTable.length = 10 := rfl
  cases size <;> simp only [KeySize.rounds, KeySize.bytes] at hi ⊢ <;> omega

theorem KeySize.words_pos (size : KeySize) : 0 < size.bytes / 4 := by
  cases size <;> decide

/-- Settles O32: the first words are `keyWords`, and each later one is `nextWord` of the words before it, whose three
branches have a lemma each. -/
theorem keyExpansionFollowsTheRecurrence : Obligations.KeyExpansionFollowsTheRecurrence := by
  refine fun size k hk => ⟨length_expandKey hk, fun i hi => ?_, fun i h0 hi => ?_⟩
  · have hb : 4 * i + 3 < k.length := by omega
    refine ⟨k[4 * i], k[4 * i + 1], k[4 * i + 2], k[4 * i + 3], ?_⟩
    simp [expandKey_getElem?_of_lt hk hi, keyWords_getElem? k i hb]
  · have hlen : (expandKey size k).length = 4 * (size.rounds + 1) := length_expandKey hk
    have hpos := size.words_pos
    have hp : i - 1 < (expandKey size k).length := by omega
    have hv : i - size.bytes / 4 < (expandKey size k).length := by omega
    have hi' : ((expandKey size k).take i).length = i := by rw [List.length_take]; omega
    have hp' := wordAt_take hp (show i - 1 < i by omega)
    have hv' := wordAt_take hv (show i - size.bytes / 4 < i by omega)
    have hrc := rcon_index_lt hi
    exact ⟨_, _, _, List.getElem?_eq_getElem hp, List.getElem?_eq_getElem hv, expandKey_getElem?_of_le hk h0 hi,
      fun h => ⟨_, List.getElem?_eq_getElem hrc, nextWord_of_mod_eq_zero hi' hp' hv' h (rcon_of_lt hrc)⟩,
      fun h h8 h4 => nextWord_of_mod_eq_four hi' hp' hv' h (by rw [h8]; exact ⟨rfl, h4⟩),
      fun h h4 => nextWord_of_mod_ne hi' hp' hv' h fun ⟨h8, h4'⟩ => h4 ⟨h8, by rwa [h8] at h4'⟩⟩

/-! ## The commands -/

/-- The KS field that is no key size (30_encoding R97). -/
theorem keySizeOf_eq_none_iff : ∀ ks : BitVec 2, keySizeOf ks = none ↔ ks = 3 := by
  decide

/-- KEXP with a legal KS field (42_aes_key_schedule R173). -/
theorem exec_kexp_of_size (hk : keySizeOf ks = some size) (s : State) :
    exec (.kexp ks) s =
      check s.klenOutOfRange .lenRegRange s
        (check (s.kn ≠ size.bytes) .keyLength s (ok { s with rk := some ⟨size, expandKey size s.key⟩ })) := by
  simp only [exec, execKexp, hk, scheduleOf]

/-- KEXP with the KS field 3. -/
theorem exec_kexp_of_no_size (hk : keySizeOf ks = none) (s : State) :
    exec (.kexp ks) s = check s.klenOutOfRange .lenRegRange s (raise .keySizeSelect s) := by
  simp only [exec, execKexp, hk]

/-- Settles O33: the three checks in order, and the end of KEXP writes RK alone. -/
theorem kexpOpensASession : Obligations.KexpOpensASession := by
  refine ⟨⟨rfl, rfl⟩, ⟨rfl, rfl⟩, ⟨rfl, rfl⟩, fun ks s => ?_⟩
  cases hk : keySizeOf ks with
  | none =>
    rw [exec_kexp_of_no_size hk]
    exact checked_of_check Iff.rfl rfl fun _ => checked_raise ((keySizeOf_eq_none_iff ks).1 hk) rfl
  | some size =>
    have hks : ks ≠ 3 := fun h => by simp [(keySizeOf_eq_none_iff ks).2 h] at hk
    rw [exec_kexp_of_size hk]
    exact checked_of_check Iff.rfl rfl fun _ => checked_skip hks <| checked_of_check (by simp) rfl fun _ =>
      ⟨_, rfl, size, rfl, rfl, rfl, congrArg some (code_of_keySizeOf hk), rfl, rfl, rfl, ⟨rfl, fun _ => rfl⟩,
        ⟨rfl, rfl, fun _ => rfl, fun _ => rfl⟩, rfl, rfl, rfl⟩

/-- The bytes of round key rd, word after word (42_aes_key_schedule R174). -/
def roundKeyBytes (W : List KeyWord) (rd : Nat) : List Byte :=
  ([0, 1, 2, 3] : List Nat).flatMap fun c => (wordAt W (4 * rd + c)).toList

theorem roundKeyBytes_getElem? (W : List KeyWord) (rd : Nat) : ∀ c b : Fin 4,
    (roundKeyBytes W rd)[4 * c.val + b.val]? = some ((wordAt W (4 * rd + c.val)).get b) := by
  intro c b
  fin_cases c <;> fin_cases b <;> rfl

/-- RDRK with a schedule (42_aes_key_schedule R174). -/
theorem exec_rdrk_of_schedule {sch : Schedule} (rd : BitVec 4) (hr : s.rk = some sch) :
    exec (.rdrk rd) s =
      check (ridxOutOfRange rd sch.size) .roundIndex s (ok (deliver (roundKeyBytes sch.words rd.toNat) s)) := by
  simp only [exec, execRdrk, hr, roundKeyBytes]

/-- KCLR makes no check (42_aes_key_schedule R175). -/
theorem exec_kclr (s : State) : exec .kclr s = .next ((endSession s).completed false) := rfl

/-- Settles O34: RDRK's two checks in order and the bytes of `roundKeyBytes`; KCLR's end clears STATE and RK. -/
theorem rdrkReadsAndKclrClosesASession : Obligations.RdrkReadsAndKclrClosesASession := by
  refine ⟨⟨rfl, rfl⟩, ⟨rfl, rfl⟩, ⟨rfl, rfl⟩, fun rd s => ?_, fun s => ?_⟩
  · cases hr : s.rk with
    | none =>
      rw [exec_of_no_schedule hr (.inr (.inl ⟨rd, rfl⟩))]
      exact checked_raise (by simp [State.rkv, hr]) rfl
    | some sch =>
      rw [exec_rdrk_of_schedule rd hr]
      refine checked_skip (by simp [State.rkv, hr]) <| checked_of_check (by simp [hr]) rfl fun _ => ?_
      obtain ⟨hok, ⟨hlen, hbytes⟩, hkeeps⟩ := deliversOnly_completed false (roundKeyBytes sch.words rd.toNat) s
      exact ⟨_, rfl, sch, hr, hlen, fun c b => hbytes _ _ (roundKeyBytes_getElem? _ _ c b), hok, hkeeps⟩
  · exact ⟨_, exec_kclr s, rfl, rfl, rfl, rfl, ⟨rfl, fun _ => rfl⟩, ⟨rfl, rfl, fun _ => rfl, fun _ => rfl⟩,
      rfl, rfl, rfl⟩

end Sys2Proof.Machine
end

section
/-! The AES block engine (43_aes_block_engine): ENCB and DECB are one command body, `blockCommand`, run with the two
block functions; what it checks and leaves is said once, for every block function. -/

namespace Sys2Proof.Machine

open Sys2Proof

variable {i : Instr} {f : List Byte → List KeyWord → Nat → List Byte}

/-- The checks of ENCB and DECB, in order (43_aes_block_engine R192). -/
def blockChecks (s : State) : List (Prop × Word32) :=
  [(s.n > s.params.ibufCap, 0x085#32), (s.rkv = false, 0x055#32), (s.n ≠ 16, 0x075#32)]

/-- Success of a command that delivers the block function f of IBUF[0..15] under the open schedule, uses STATE up and
writes nothing else but STATUS (43_aes_block_engine R192). -/
def DeliversBlock (f : List Byte → List KeyWord → Nat → List Byte) (s t : State) : Prop :=
  ∃ sch, s.rk = some sch ∧ Succeeded false t ∧ Delivers (f s.input sch.words sch.size.rounds) t ∧ t.olen = 16#32 ∧
    t.stv = false ∧ t.rk = s.rk ∧ t.res = s.res ∧ SameInputs s t ∧ SameWorld s t

/-- A block command that ends well. -/
theorem deliversBlock_completed {s : State} {sch : Schedule} (hf : ∀ b W N, (f b W N).length = 16)
    (hr : s.rk = some sch) :
    DeliversBlock f s ((dropState (deliver (f s.input sch.words sch.size.rounds) s)).completed false) := by
  obtain ⟨hok, hdel, hres, -, hin, hworld⟩ :=
    deliversOnly_completed false (f s.input sch.words sch.size.rounds) s
  have holen : BitVec.ofNat 32 (f s.input sch.words sch.size.rounds).length = 16#32 := by rw [hf]
  exact ⟨sch, hr, hok, hdel, holen, rfl, rfl, hres, hin, hworld⟩

/-- All that a block command reports and leaves (43_aes_block_engine R192, R193). -/
theorem follows_of_blockCommand (hi : exec i = blockCommand f) (hf : ∀ b W N, (f b W N).length = 16) :
    Follows i blockChecks (DeliversBlock f) := by
  intro s
  rw [hi, blockCommand]
  refine checked_of_check Iff.rfl rfl fun _ => ?_
  cases hr : s.rk with
  | none => exact checked_raise (by simp [State.rkv, hr]) rfl
  | some sch =>
    exact checked_skip (by simp [State.rkv, hr]) <| checked_of_check Iff.rfl rfl fun _ =>
      ⟨_, rfl, deliversBlock_completed hf hr⟩

/-- Settles O35: both commands are `blockCommand`, with block functions that give 16 bytes. -/
theorem encbAndDecbRunOneBlock : Obligations.EncbAndDecbRunOneBlock :=
  ⟨⟨rfl, rfl⟩, ⟨rfl, rfl⟩, follows_of_blockCommand rfl length_encryptBlock,
    follows_of_blockCommand rfl length_decryptBlock⟩

end Sys2Proof.Machine
end

section
/-! Padding, hexadecimal and UTF-8 validity (44_mode_sequencer, section 1): what each function gives, one law for each
case. The decoder of hexadecimal is described by `IsDigit`, the sequences of UTF-8 by `IsUtf8`. -/

namespace Sys2Proof.Machine

open Sys2Proof

variable {d e t : List Byte} {p ch : Byte} {v : Nat}

/-! ## Padding -/

/-- The strip undoes a valid padding (44_mode_sequencer R212). -/
theorem unpadV_append_replicate (h1 : 1 ≤ p.toNat) (h16 : p.toNat ≤ 16) :
    unpadV (e ++ List.replicate p.toNat p) = (e, false) := by
  have hlast : (e ++ List.replicate p.toNat p).getLast? = some p := by
    rw [List.getLast?_append, List.getLast?_replicate, if_neg (by omega), Option.some_or]
  have hlen : (e ++ List.replicate p.toNat p).length - p.toNat = e.length := by simp
  have hp : 1 ≤ p.toNat ∧ p.toNat ≤ 16 ∧ p.toNat ≤ (e ++ List.replicate p.toNat p).length ∧
      ∀ v ∈ (e ++ List.replicate p.toNat p).drop e.length, v = p :=
    ⟨h1, h16, by simp, fun v hv => List.eq_of_mem_replicate (by rwa [List.drop_left] at hv)⟩
  simp only [unpadV, hlast, hlen]
  rw [if_pos hp, List.take_left]

/-- Without a valid padding the strip keeps everything and warns (44_mode_sequencer R212). -/
theorem unpadV_of_not_endsInPadding (h : ¬ EndsInPadding d) : unpadV d = (d, true) := by
  unfold unpadV
  split
  · rfl
  · rename_i last _
    refine if_neg fun ⟨h1, h16, hle, hall⟩ => h ⟨last, h1, h16, hle, List.eq_replicate_iff.2 ⟨?_, hall⟩⟩
    rw [List.length_drop]
    omega

/-- The unconditional strip takes as many bytes as the last byte says (44_mode_sequencer R213). -/
theorem unpadU_append_singleton (corner : UnpadCorner) (h1 : 1 ≤ p.toNat) :
    unpadU corner (e ++ [p]) = (e ++ [p]).take (e.length + 1 - p.toNat) := by
  have h0 : p.toNat ≠ 0 := by omega
  simp only [unpadU, List.getLast?_concat, h0, if_false, List.length_append, List.length_singleton]
  split_ifs with hlt
  · rfl
  · rw [Nat.sub_eq_zero_of_le (not_lt.1 hlt), List.take_zero]

/-- A last byte 0 strips nothing under CLAMP (44_mode_sequencer R213). -/
theorem unpadU_clamp_append_zero (h0 : p.toNat = 0) : unpadU .clamp (e ++ [p]) = e ++ [p] := by
  simp only [unpadU, List.getLast?_concat, h0, if_true]

/-- A last byte 0 strips everything under PYSLICE (44_mode_sequencer R213). -/
theorem unpadU_pyslice_append_zero (h0 : p.toNat = 0) : unpadU .pyslice (e ++ [p]) = [] := by
  simp only [unpadU, List.getLast?_concat, h0, if_true]

/-- Settles O39: the length of a padded payload is `paddedLength`, and each branch of the two strips has a law. -/
theorem paddingAndStripFunctions : Obligations.PaddingAndStripFunctions := by
  refine ⟨fun d => ⟨rfl, ?_⟩, fun b d => ?_, ?_, fun _ => unpadV_of_not_endsInPadding,
    fun corner e p => ⟨unpadU_append_singleton corner, ?_, ?_⟩⟩
  · rw [length_padBytes, paddedLength]
    omega
  · by_cases h : d.length % 16 = 0 <;> cases b <;> simp [padFile, h]
  · rintro _ e p rfl h1 h16
    exact unpadV_append_replicate h1 h16
  · rintro h0 rfl
    exact unpadU_clamp_append_zero h0
  · rintro h0 rfl
    exact unpadU_pyslice_append_zero h0

/-! ## Hexadecimal -/

/-- The nibble's character is the digit of that number (44_mode_sequencer R214). -/
theorem hexDigits_getElem? : ∀ v < 16, hexDigits[v]? = some (hexDigit v) := by decide

theorem hexVal_lower : ∀ v < hexDigits.length, hexDigits[v]?.bind hexVal = some v := by decide

theorem hexVal_upper : ∀ v < upperHexDigits.length, upperHexDigits[v]?.bind hexVal = some (v + 10) := by decide

theorem isDigit_of_hexVal : ∀ ch : Byte, ∀ v ∈ hexVal ch, IsDigit ch v := by
  unfold IsDigit
  decide +kernel

/-- `hexval` knows the digits and no other character (44_mode_sequencer R215). -/
theorem hexVal_eq_some_iff : hexVal ch = some v ↔ IsDigit ch v := by
  refine ⟨isDigit_of_hexVal ch v, ?_⟩
  rintro (h | ⟨h10, h⟩)
  · have hv := hexVal_lower v (List.getElem?_eq_some_iff.1 h).1
    rwa [h] at hv
  · have hv := hexVal_upper (v - 10) (List.getElem?_eq_some_iff.1 h).1
    rwa [h, Nat.sub_add_cancel h10] at hv

theorem hexEnc_cons (v : Byte) (d : List Byte) :
    hexEnc (v :: d) = hexDigit (v.toNat / 16) :: hexDigit (v.toNat % 16) :: hexEnc d := rfl

/-- The two characters of byte i (44_mode_sequencer R214). -/
theorem hexEnc_getElem? {i : Nat} {v : Byte} (h : d[i]? = some v) :
    (hexEnc d)[2 * i]? = some (hexDigit (v.toNat / 16)) ∧ (hexEnc d)[2 * i + 1]? = some (hexDigit (v.toNat % 16)) := by
  induction d generalizing i with
  | nil => simp at h
  | cons u d ih =>
    cases i with
    | zero =>
      obtain rfl : u = v := by simpa using h
      exact ⟨rfl, rfl⟩
    | succ i => exact ih h

/-- Decoding takes two digits and goes on (44_mode_sequencer R215). -/
theorem hexDec_cons_cons {h l : Byte} :
    hexDec (h :: l :: t) = some d ↔ ∃ hi lo out, IsDigit h hi ∧ IsDigit l lo ∧ hexDec t = some out ∧
      BitVec.ofNat 8 (16 * hi + lo) :: out = d := by
  simp only [← hexVal_eq_some_iff, hexDec]
  split <;> simp_all

/-- What decodes has digits only (44_mode_sequencer R215). -/
theorem isDigit_of_hexDec (h : hexDec t = some d) : ∀ ch ∈ t, ∃ v, IsDigit ch v := by
  induction t using List.twoStepInduction generalizing d with
  | nil => simp
  | singleton => simp [hexDec] at h
  | cons_cons a b t ih _ =>
    obtain ⟨hi, lo, out, ha, hb, ht, -⟩ := hexDec_cons_cons.1 h
    simp only [List.mem_cons, forall_eq_or_imp]
    exact ⟨⟨hi, ha⟩, ⟨lo, hb⟩, ih ht⟩

/-- An even number of digits decodes (44_mode_sequencer R215). -/
theorem exists_hexDec (heven : t.length % 2 = 0) (hd : ∀ ch ∈ t, ∃ v, IsDigit ch v) : ∃ d, hexDec t = some d := by
  induction t using List.twoStepInduction with
  | nil => exact ⟨[], rfl⟩
  | singleton => simp at heven
  | cons_cons a b t ih _ =>
    simp only [List.mem_cons, forall_eq_or_imp] at hd
    obtain ⟨⟨hi, ha⟩, ⟨lo, hb⟩, ht⟩ := hd
    obtain ⟨out, hout⟩ := ih (by rw [List.length_cons, List.length_cons] at heven; omega) ht
    exact ⟨_, hexDec_cons_cons.2 ⟨hi, lo, out, ha, hb, hout, rfl⟩⟩

/-- Byte i is the value of characters 2 i and 2 i + 1 (44_mode_sequencer R215). -/
theorem hexDec_getElem? {i hi lo : Nat} {h l : Byte} (hdec : hexDec t = some d) (hh : t[2 * i]? = some h)
    (hl : t[2 * i + 1]? = some l) (hhi : IsDigit h hi) (hlo : IsDigit l lo) :
    d[i]? = some (BitVec.ofNat 8 (16 * hi + lo)) := by
  induction t using List.twoStepInduction generalizing d i with
  | nil => simp at hh
  | singleton => simp [hexDec] at hdec
  | cons_cons a b t ih _ =>
    obtain ⟨x, y, out, ha, hb, ht, rfl⟩ := hexDec_cons_cons.1 hdec
    cases i with
    | zero =>
      obtain rfl : a = h := by simpa using hh
      obtain rfl : b = l := by simpa using hl
      obtain rfl : x = hi := Option.some.inj ((hexVal_eq_some_iff.2 ha).symm.trans (hexVal_eq_some_iff.2 hhi))
      obtain rfl : y = lo := Option.some.inj ((hexVal_eq_some_iff.2 hb).symm.trans (hexVal_eq_some_iff.2 hlo))
      rfl
    | succ i => exact ih (d := out) ht hh hl

/-- Settles O40: the characters of `hexEnc` by position, and `hexDec` by the pairs that it takes. -/
theorem hexadecimalFunctions : Obligations.HexadecimalFunctions := by
  refine ⟨fun d => ⟨length_hexEnc d, fun i v hv => ?_⟩, fun t hodd => ?_, fun t i ch hch hno => ?_,
    fun t heven hd => ?_⟩
  · obtain ⟨hhi, hlo⟩ := hexEnc_getElem? hv
    exact ⟨hhi.trans (hexDigits_getElem? _ (by omega)).symm, hlo.trans (hexDigits_getElem? _ (by omega)).symm⟩
  · refine Option.eq_none_iff_forall_ne_some.2 fun d hd => hodd ?_
    rw [length_hexDec hd, Nat.mul_mod_right]
  · refine Option.eq_none_iff_forall_ne_some.2 fun d hd => ?_
    obtain ⟨v, hv⟩ := isDigit_of_hexDec hd ch (List.mem_of_getElem? hch)
    exact hno v hv
  · obtain ⟨d, hdec⟩ := exists_hexDec heven hd
    exact ⟨d, hdec, length_hexDec hdec, fun i hi lo h l => hexDec_getElem? hdec⟩

/-! ## UTF-8 validity -/

/-- Sequence q matches a row, byte by byte (44_mode_sequencer R216). -/
def MatchesRow (q : List Byte) (row : List (Nat × Nat)) : Prop :=
  List.Forall₂ (fun b r => r.1 ≤ b.toNat ∧ b.toNat ≤ r.2) q row

/-- `afterRow` leaves what follows a sequence that matches the row. -/
theorem afterRow_eq_some_iff {row : List (Nat × Nat)} {rest : List Byte} :
    afterRow row d = some rest ↔ ∃ q, MatchesRow q row ∧ d = q ++ rest := by
  unfold MatchesRow
  induction row generalizing d with
  | nil => simp [afterRow]
  | cons r row ih =>
    cases d with
    | nil => simp [afterRow, List.forall₂_cons_right_iff]
    | cons b d =>
      by_cases hr : r.1 ≤ b.toNat ∧ b.toNat ≤ r.2
      · simp [afterRow, hr, ih, List.forall₂_cons_right_iff]
      · simp [afterRow, hr, List.forall₂_cons_right_iff]

/-- The first bytes of a row are below those of another. -/
def LeadBelow (row row' : List (Nat × Nat)) : Prop := ∀ r ∈ row.head?, ∀ r' ∈ row'.head?, r.2 < r'.1

/-- The rows' first bytes exclude each other (44_mode_sequencer R216). -/
theorem utf8Rows_leads_disjoint :
    ∀ row ∈ utf8Rows, ∀ row' ∈ utf8Rows, row = row' ∨ LeadBelow row row' ∨ LeadBelow row' row := by
  unfold LeadBelow
  decide

theorem utf8Rows_ne_nil : ∀ row ∈ utf8Rows, row ≠ [] := by decide

/-- A byte sequence that begins with a match of a row has its first byte in the row's first range. -/
theorem lead_of_afterRow {row : List (Nat × Nat)} {b : Byte} {rest : List Byte} (h : afterRow row (b :: d) = some rest) :
    ∀ r ∈ row.head?, r.1 ≤ b.toNat ∧ b.toNat ≤ r.2 := by
  rintro r hr
  obtain ⟨row, rfl⟩ := List.head?_eq_some_iff.1 hr
  by_contra hb
  simp [afterRow, hb] at h

/-- Two rows that match at the same place are one. -/
theorem row_unique {row row' : List (Nat × Nat)} {b : Byte} {rest rest' : List Byte} (hrow : row ∈ utf8Rows)
    (hrow' : row' ∈ utf8Rows) (h : afterRow row (b :: d) = some rest) (h' : afterRow row' (b :: d) = some rest') :
    row = row' := by
  obtain ⟨r, tl, rfl⟩ := List.exists_cons_of_ne_nil (utf8Rows_ne_nil row hrow)
  obtain ⟨r', tl', rfl⟩ := List.exists_cons_of_ne_nil (utf8Rows_ne_nil row' hrow')
  obtain ⟨h1, h2⟩ := lead_of_afterRow h r rfl
  obtain ⟨h1', h2'⟩ := lead_of_afterRow h' r' rfl
  rcases utf8Rows_leads_disjoint _ hrow _ hrow' with heq | hlt | hlt
  · exact heq
  · have := hlt r rfl r' rfl
    omega
  · have := hlt r' rfl r rfl
    omega

/-- The first row that matches is any row that matches. -/
theorem findSome_afterRow {b : Byte} {rest : List Byte} :
    utf8Rows.findSome? (fun row => afterRow row (b :: d)) = some rest ↔
      ∃ row ∈ utf8Rows, afterRow row (b :: d) = some rest := by
  refine ⟨List.exists_of_findSome?_eq_some, fun ⟨row, hrow, h⟩ => ?_⟩
  cases hf : utf8Rows.findSome? fun row => afterRow row (b :: d) with
  | none => simp [List.findSome?_eq_none_iff.1 hf row hrow] at h
  | some rest' =>
    obtain ⟨row', hrow', h'⟩ := List.exists_of_findSome?_eq_some hf
    rw [← h, row_unique hrow hrow' h h', h']

/-- A match of a row takes at least one byte. -/
theorem length_lt_of_afterRow {row : List (Nat × Nat)} {rest : List Byte} (hrow : row ∈ utf8Rows)
    (h : afterRow row d = some rest) : rest.length < d.length := by
  obtain ⟨q, hq, rfl⟩ := afterRow_eq_some_iff.1 h
  have hpos := List.length_pos_iff.2 (utf8Rows_ne_nil row hrow)
  rw [List.length_append, hq.length_eq]
  omega

theorem isUtf8_nil : IsUtf8 [] := ⟨[], rfl, by simp⟩

/-- A byte sequence that is not empty is a match of a row and a concatenation of sequences (44_mode_sequencer R216). -/
theorem isUtf8_cons_iff {b : Byte} :
    IsUtf8 (b :: d) ↔ ∃ row ∈ utf8Rows, ∃ rest, afterRow row (b :: d) = some rest ∧ IsUtf8 rest := by
  constructor
  · rintro ⟨_ | ⟨q, seqs⟩, hd, hall⟩
    · simp at hd
    · rw [List.forall_mem_cons] at hall
      obtain ⟨⟨row, hrow, hq⟩, hseqs⟩ := hall
      exact ⟨row, hrow, seqs.flatten, afterRow_eq_some_iff.2 ⟨q, hq, hd⟩, seqs, rfl, hseqs⟩
  · rintro ⟨row, hrow, rest, h, seqs, rfl, hseqs⟩
    obtain ⟨q, hq, hd⟩ := afterRow_eq_some_iff.1 h
    exact ⟨q :: seqs, hd, List.forall_mem_cons.2 ⟨⟨row, hrow, hq⟩, hseqs⟩⟩

/-- One sequence taken off (44_mode_sequencer R216). -/
theorem utf8Seqs_cons_iff {fuel : Nat} {b : Byte} :
    utf8Seqs (fuel + 1) (b :: d) = true ↔
      ∃ row ∈ utf8Rows, ∃ rest, afterRow row (b :: d) = some rest ∧ utf8Seqs fuel rest = true := by
  have hstep : utf8Seqs (fuel + 1) (b :: d) = true ↔
      ∃ rest, utf8Rows.findSome? (fun row => afterRow row (b :: d)) = some rest ∧ utf8Seqs fuel rest = true := by
    rw [utf8Seqs]
    split <;> rename_i heq <;> simp [heq]
  rw [hstep]
  simp only [findSome_afterRow]
  exact ⟨fun ⟨rest, ⟨row, hrow, h⟩, hs⟩ => ⟨row, hrow, rest, h, hs⟩,
    fun ⟨row, hrow, rest, h, hs⟩ => ⟨rest, ⟨row, hrow, h⟩, hs⟩⟩

/-- The greedy check finds every concatenation that has no more sequences than it has fuel. -/
theorem utf8Seqs_iff {fuel : Nat} (hf : d.length ≤ fuel) : utf8Seqs fuel d = true ↔ IsUtf8 d := by
  induction fuel generalizing d with
  | zero =>
    obtain rfl := List.length_eq_zero_iff.1 (Nat.le_zero.1 hf)
    exact iff_of_true rfl isUtf8_nil
  | succ fuel ih =>
    cases d with
    | nil => exact iff_of_true rfl isUtf8_nil
    | cons b d =>
      rw [utf8Seqs_cons_iff, isUtf8_cons_iff]
      refine exists_congr fun row => and_congr_right fun hrow => exists_congr fun rest =>
        and_congr_right fun h => ih ?_
      have := length_lt_of_afterRow hrow h
      omega

/-- Settles O41: the rows' first bytes exclude each other, so taking the one row that matches misses no concatenation. -/
theorem utf8ValidityIsTheTable : Obligations.Utf8ValidityIsTheTable := fun _ => utf8Seqs_iff le_rfl

end Sys2Proof.Machine
end

section
/-! The framing commands PAD, UNPADU, UNPADV, HEXE, HEXD, U8CHK and KDF (44_mode_sequencer, section 2): each is a chain
of checks closed by a delivery. The two checks that five of them share are said once. -/

namespace Sys2Proof.Machine

open Sys2Proof

variable {s : State} {k : Out} {ks : BitVec 2} {size : KeySize}

/-- The checks of a framing command that reads IBUF alone (44_mode_sequencer R235). -/
theorem checked_of_precheck {need : Nat} {rest : List (Prop × Word32)} {P : State → Prop}
    (h : ∃ t, k = .next t ∧ Checked s rest P t) :
    ∃ t, precheck need s k = .next t ∧
      Checked s ((s.n > s.params.ibufCap, 0x085#32) :: (need > s.params.obufCap, 0x035#32) :: rest) P t :=
  checked_of_check Iff.rfl rfl fun _ => checked_of_check Iff.rfl rfl fun _ => h

/-- Settles O42: the shared checks, UNPADU's own, and a delivery; PAD's length is `paddedLength`. -/
theorem padUnpaduUnpadvDeliver : Obligations.PadUnpaduUnpadvDeliver := by
  refine ⟨⟨rfl, rfl⟩, ⟨rfl, rfl⟩, ⟨rfl, rfl⟩, fun s => ?_, fun s => ?_, fun s => ?_⟩
  · have hlen : (padBytes s.input).length = s.n + 16 - s.n % 16 := by rw [length_padBytes, input_length, paddedLength]
    exact checked_of_precheck ⟨_, rfl, deliversOnly_completed .., congrArg (BitVec.ofNat 32) hlen⟩
  · exact checked_of_precheck <| checked_of_check Iff.rfl rfl fun _ => ⟨_, rfl, deliversOnly_completed ..⟩
  · exact checked_of_precheck ⟨_, rfl, deliversOnly_completed ..⟩

/-- HEXD after the shared checks, with a payload that does not decode (44_mode_sequencer R224). -/
theorem exec_hexd_of_none (h : hexDec s.input = none) :
    exec .hexd s = precheck (s.n / 2) s (raise .hexMalformed s) := by
  simp only [exec, execHexd, h]

/-- HEXD after the shared checks, with a payload that decodes (44_mode_sequencer R224). -/
theorem exec_hexd_of_some {d : List Byte} (h : hexDec s.input = some d) :
    exec .hexd s = precheck (s.n / 2) s (ok (deliver d s)) := by
  simp only [exec, execHexd, h]

/-- A payload that decodes is twice as long as what it decodes to (44_mode_sequencer R215). -/
theorem n_eq_of_hexDec_input {d : List Byte} (h : hexDec s.input = some d) : s.n = 2 * d.length :=
  (input_length s).symm.trans (length_hexDec h)

/-- U8CHK's end writes STATUS alone (44_mode_sequencer R225). -/
theorem frame_of_completed (s : State) :
    (s.completed false).res = s.res ∧ SameOutput s (s.completed false) ∧ SameSession s (s.completed false) ∧
      SameInputs s (s.completed false) ∧ SameWorld s (s.completed false) :=
  ⟨rfl, ⟨rfl, fun _ => rfl⟩, ⟨rfl, rfl⟩, ⟨rfl, rfl, fun _ => rfl, fun _ => rfl⟩, rfl, rfl, rfl⟩

/-- Settles O43: the shared checks and a delivery, HEXD's after a case split on the decoding; U8CHK delivers nothing. -/
theorem hexeHexdU8chkFrame : Obligations.HexeHexdU8chkFrame := by
  refine ⟨⟨rfl, rfl⟩, ⟨rfl, rfl⟩, ⟨rfl, rfl⟩, fun s => ?_, fun s => ?_, fun s => ?_⟩
  · have hlen : (hexEnc s.input).length = 2 * s.n := by rw [length_hexEnc, input_length]
    exact checked_of_precheck ⟨_, rfl, deliversOnly_completed .., congrArg (BitVec.ofNat 32) hlen⟩
  · cases hd : hexDec s.input with
    | none =>
      rw [exec_hexd_of_none hd]
      exact checked_of_precheck <| checked_raise hd rfl
    | some d =>
      have hlen : d.length = s.n / 2 := by rw [n_eq_of_hexDec_input hd]; omega
      rw [exec_hexd_of_some hd]
      exact checked_of_precheck <| checked_skip (by simp [hd])
        ⟨_, rfl, d, hd, deliversOnly_completed .., congrArg (BitVec.ofNat 32) hlen⟩
  · exact checked_of_check Iff.rfl rfl fun _ => checked_of_check Iff.rfl rfl fun _ => ⟨_, rfl, rfl, frame_of_completed s⟩

/-! ## The key size and the passphrase -/

/-- The bytes of a derived key are the first of the digest (44_mode_sequencer R217). -/
theorem deriveKey_getElem? (H : List Byte → Digest) (pass : List Byte) {i kb : Nat} (hi : i < kb) :
    (deriveKey H pass kb)[i]? = (H pass).toList[i]? := List.getElem?_take_of_lt hi

/-- The KS field of a key size is not 3 (30_encoding R97). -/
theorem ne_three_of_keySizeOf (h : keySizeOf ks = some size) : ks ≠ 3 := fun h3 => by
  simp [(keySizeOf_eq_none_iff ks).2 h3] at h

/-- What the commands that derive a key check after their length registers: the key size and the passphrase
(44_mode_sequencer R226 to R230). -/
theorem checked_of_keySize {f : KeySize → Out} {rest : List (Prop × Word32)} {P : State → Prop}
    (h : ∀ size, keySizeOf ks = some size → ∃ t, f size = .next t ∧ Checked s rest P t) :
    ∃ t, (match keySizeOf ks with
        | none => raise .keySizeSelect s
        | some size => check (s.kn = 0) .emptyKey s (f size)) = .next t ∧
      Checked s ((ks = 3, 0x051#32) :: (s.kn = 0, 0x021#32) :: rest) P t := by
  cases hk : keySizeOf ks with
  | none => exact checked_raise ((keySizeOf_eq_none_iff ks).1 hk) rfl
  | some size =>
    exact checked_skip (ne_three_of_keySizeOf hk) <| checked_of_check Iff.rfl rfl fun _ => h size hk

/-- Settles O44: KDF's checks in order and a delivery of the derived key. -/
theorem kdfDeliversTheDerivedKey : Obligations.KdfDeliversTheDerivedKey := by
  refine ⟨⟨rfl, rfl⟩, ⟨rfl, rfl⟩, ⟨rfl, rfl⟩,
    fun H pass size => ⟨length_deriveKey H pass size, fun i => deriveKey_getElem? H pass⟩, fun ks s => ?_⟩
  exact checked_of_check Iff.rfl rfl fun _ => checked_of_keySize fun size hk =>
    ⟨_, rfl, size, hk, deliversOnly_completed .., congrArg (BitVec.ofNat 32) (length_deriveKey ..)⟩

end Sys2Proof.Machine
end

section
/-! The payload commands AESTE, AESTD, AESFE and AESFD (44_mode_sequencer, section 3): a payload is run block by block,
and the four checks that the commands share are said once. -/

namespace Sys2Proof.Machine

open Sys2Proof

variable {s : State} {ks : BitVec 2} {size : KeySize} {c d : List Byte} {f : List Byte → List Byte}

/-! ## The blocks of a payload -/

/-- Each block of the output is the function of the same block of the input (44_mode_sequencer R218). -/
theorem blockOf_flatMap_blocks (hf : ∀ b, (f b).length = 16) {n j : Nat} (hj : j < n) (d : List Byte) :
    blockOf j ((blocks n d).flatMap f) = f (blockOf j d) := by
  induction n generalizing j d with
  | zero => omega
  | succ n ih =>
    cases j with
    | zero => simp [blocks, blockOf, hf]
    | succ j =>
      have hout : ∀ l : List Byte, blockOf (j + 1) (f (d.take 16) ++ l) = blockOf j l := fun l => by
        rw [blockOf, Nat.mul_succ, Nat.add_comm, ← List.drop_drop, List.drop_left' (hf _), blockOf]
      have hin : blockOf (j + 1) d = blockOf j (d.drop 16) := by
        rw [blockOf, blockOf, List.drop_drop, Nat.mul_succ, Nat.add_comm]
      rw [blocks, List.flatMap_cons, hout, hin, ih (by omega)]

/-- The blocks of whole blocks and what follows them (44_mode_sequencer R218). -/
theorem blocks_append {n : Nat} (hd : d.length = 16 * n) (m : Nat) (e : List Byte) :
    blocks (n + m) (d ++ e) = blocks n d ++ blocks m e := by
  induction n generalizing d with
  | zero =>
    obtain rfl := List.length_eq_zero_iff.1 hd
    rw [Nat.zero_add]
    rfl
  | succ n ih =>
    have h16 : 16 ≤ d.length := by omega
    rw [Nat.succ_add, blocks, blocks, List.take_append_of_le_length h16, List.drop_append_of_le_length h16,
      ih (by rw [List.length_drop]; omega), List.cons_append]

/-- Settles O45: both payload functions run one block function over `blocks`. -/
theorem payloadsRunBlockByBlock : Obligations.PayloadsRunBlockByBlock := by
  intro d W N hd
  have h16 : 16 * (d.length / 16) = d.length := by omega
  refine ⟨(length_ecbEnc d W N).trans h16, (length_ecbDec d W N).trans h16, fun j hj => ⟨?_, ?_⟩, fun e => ?_, rfl, rfl⟩
  · exact blockOf_flatMap_blocks (fun b => length_encryptBlock b W N) hj d
  · exact blockOf_flatMap_blocks (fun b => length_decryptBlock b W N) hj d
  · have hn : (d ++ e).length / 16 = d.length / 16 + e.length / 16 := by rw [List.length_append]; omega
    rw [ecbEnc, hn, blocks_append h16.symm, List.flatMap_append, ← ecbEnc, ← ecbEnc]

/-! ## The commands -/

/-- The checks that the four commands share (44_mode_sequencer R227 to R230). -/
theorem checked_of_payloadChecks {need need' : Nat} {g : KeySize → Out} {rest : List (Prop × Word32)}
    {P : State → Prop} (hneed : need = need')
    (h : ∀ size, keySizeOf ks = some size → ∃ t, g size = .next t ∧ Checked s rest P t) :
    ∃ t, payloadChecks need ks s g = .next t ∧
      Checked s ((s.n > s.params.ibufCap ∨ s.kn > s.params.kbufCap, 0x085#32) ::
        (need' > s.params.obufCap, 0x035#32) :: (ks = 3, 0x051#32) :: (s.kn = 0, 0x021#32) :: rest) P t := by
  subst hneed
  exact checked_of_check Iff.rfl rfl fun _ => checked_of_check Iff.rfl rfl fun _ => checked_of_keySize h

/-- Settles O46: the shared checks and a delivery from the closed session, of the length that the need says. -/
theorem aesteAndAesfeEncryptAPayload : Obligations.AesteAndAesfeEncryptAPayload := by
  refine ⟨⟨rfl, rfl⟩, ⟨rfl, rfl⟩, ⟨rfl, rfl⟩, ⟨rfl, rfl⟩, ⟨rfl, rfl⟩, ⟨rfl, rfl⟩, fun ks s => ?_, fun ks s => ?_⟩
  · refine checked_of_payloadChecks rfl fun size hk =>
      ⟨_, rfl, size, hk, deliversAndCloses_completed .., congrArg (BitVec.ofNat 32) ?_⟩
    rw [length_hexEnc, length_ecbEnc_padBytes, input_length, paddedLength]
  · refine checked_of_payloadChecks ?_ fun size hk =>
      ⟨_, rfl, size, hk, deliversAndCloses_completed .., congrArg (BitVec.ofNat 32) ?_⟩
    · rw [length_padFile, input_length]
    · rw [length_ecbEnc_padFile, length_padFile]

/-- AESTD with a payload that does not decode (44_mode_sequencer R228). -/
theorem exec_aestd_of_none (h : hexDec s.input = none) :
    exec (.aestd ks) s = payloadChecks (s.n / 2) ks s fun _ => raise .hexMalformed s := by
  simp only [exec, execAestd, h]

/-- The text that AESTD delivers from the decoded payload c (44_mode_sequencer R228). -/
def State.decryptedText (s : State) (size : KeySize) (c : List Byte) : List Byte :=
  unpadU s.params.textUnpadCorner (ecbDec c (s.sessionWords size) size.rounds)

/-- AESTD with a payload that decodes to c (44_mode_sequencer R228). -/
theorem exec_aestd_of_some (h : hexDec s.input = some c) :
    exec (.aestd ks) s = payloadChecks (s.n / 2) ks s fun size =>
      check (c.length = 0) .empty s <| check (c.length % 16 ≠ 0) .size s <|
      check (utf8Valid (s.decryptedText size c) = false) .utf8Invalid (endSession s) <|
      ok (deliver (s.decryptedText size c) (endSession s)) := by
  simp only [exec, execAestd, h]
  rfl

/-- AESTD's last check comes after the session is closed (60_exceptions R332). -/
theorem ends_of_decryptedText (d : List Byte) (s : State) :
    ∃ t, check (utf8Valid d = false) .utf8Invalid (endSession s) (ok (deliver d (endSession s))) = .next t ∧
      (utf8Valid d = true → DeliversAndCloses false d s t) ∧ (utf8Valid d = false → FailsLate s t) := by
  cases hu : utf8Valid d with
  | false =>
    rw [check_fail rfl]
    exact ⟨_, rfl, by simp, fun _ => failsLate_raised s⟩
  | true =>
    rw [check_pass (by simp)]
    exact ⟨_, rfl, fun _ => deliversAndCloses_completed false d s, by simp⟩

/-- Settles O47: a case split on the decoding; the decoded length is half of ILEN, which the checks of Empty and Size
speak of. -/
theorem aestdDecryptsAText : Obligations.AestdDecryptsAText := by
  refine ⟨⟨rfl, rfl⟩, ⟨rfl, rfl⟩, ⟨rfl, rfl⟩, fun ks s => ?_⟩
  cases hc : hexDec s.input with
  | none =>
    rw [exec_aestd_of_none hc]
    exact checked_of_payloadChecks rfl fun _ _ => checked_raise hc rfl
  | some c =>
    have hn : s.n = 2 * c.length := n_eq_of_hexDec_input hc
    rw [exec_aestd_of_some hc]
    refine checked_of_payloadChecks rfl fun size hk => checked_skip (by simp [hc]) <|
      checked_of_check (by omega) rfl fun _ => checked_of_check (by omega) rfl fun _ => ?_
    obtain ⟨t, ht, hend⟩ := ends_of_decryptedText (s.decryptedText size c) s
    exact ⟨t, ht, size, c, _, hk, hc, rfl, hend⟩

/-- Settles O48: the shared checks, the size check, and a delivery from the closed session. -/
theorem aesfdDecryptsAFile : Obligations.AesfdDecryptsAFile := by
  refine ⟨⟨rfl, rfl⟩, ⟨rfl, rfl⟩, ⟨rfl, rfl⟩, fun ks s => ?_⟩
  exact checked_of_payloadChecks rfl fun size hk => checked_of_check Iff.rfl rfl fun _ =>
    ⟨_, rfl, size, _, _, hk, rfl, deliversAndCloses_completed ..⟩

end Sys2Proof.Machine
end

section
/-! The Caesar and Vigenere ciphers (45_legacy_caesar_vigenere): what becomes of one letter, each byte of the transforms
from it, and the seven commands, each a chain of checks closed by a delivery. -/

namespace Sys2Proof.Machine

open Sys2Proof

variable {d ck : List Byte} {i : Nat} {v c : Byte} {s : State} {ins : Instr}

/-! ## One letter -/

/-- The alphabet of 26 letters from `base` on stays within a byte, so a shift within it is exact
(45_legacy_caesar_vigenere R261). -/
theorem shiftFrom_toNat {base : Nat} (hb : base + 26 ≤ 256) (v : Byte) (k : Int) :
    ((shiftFrom base v k).toNat : Int) = base + ((v.toNat : Int) - base + k) % 26 := by
  rw [shiftFrom, BitVec.toNat_ofNat]
  omega

/-! `shiftLetter` by the kind of byte (45_legacy_caesar_vigenere R261). -/

theorem shiftLetter_of_upper (h : isUpper v) (k : Int) : shiftLetter v k = shiftFrom 0x41 v k := if_pos h

theorem shiftLetter_of_lower (h : isLower v) (k : Int) : shiftLetter v k = shiftFrom 0x61 v k := by
  rw [shiftLetter, if_neg (by omega), if_pos h]

theorem shiftLetter_of_not_letter (hu : ¬ isUpper v) (hl : ¬ isLower v) (k : Int) : shiftLetter v k = v := by
  rw [shiftLetter, if_neg hu, if_neg hl]

/-- A byte is shifted within its case's alphabet, or kept (45_legacy_caesar_vigenere R261, R266). -/
theorem shiftLetter_toNat (v : Byte) (k : Int) :
    (isUpper v → ((shiftLetter v k).toNat : Int) = 0x41 + ((v.toNat : Int) - 0x41 + k) % 26) ∧
    (isLower v → ((shiftLetter v k).toNat : Int) = 0x61 + ((v.toNat : Int) - 0x61 + k) % 26) ∧
    (¬ isUpper v → ¬ isLower v → shiftLetter v k = v) := by
  refine ⟨fun hu => ?_, fun hl => ?_, fun hu hl => shiftLetter_of_not_letter hu hl k⟩
  · rw [shiftLetter_of_upper hu]
    exact shiftFrom_toNat (by decide) v k
  · rw [shiftLetter_of_lower hl]
    exact shiftFrom_toNat (by decide) v k

/-! ## The Caesar rotation -/

/-- Each byte of the rotation depends only on the byte at the same index (45_legacy_caesar_vigenere R261). -/
theorem caesar_getElem? (h : d[i]? = some v) (k : Int) : (caesar d k)[i]? = some (shiftLetter v k) := by
  rw [caesar, List.getElem?_map, h, Option.map_some]

/-- The length of a delivery as long as the payload is ILEN itself (10_state R31). -/
theorem ofNat_length_eq_ilen (h : d.length = s.n) : BitVec.ofNat 32 d.length = s.ilen := by
  rw [h, BitVec.ofNat_toNat, BitVec.setWidth_eq]

/-- CAESE and CAESD, each `caesarCommand` with its own number of places: the three checks in order, and the delivery
(45_legacy_caesar_vigenere R262, R263). -/
theorem follows_of_caesarCommand {x : Byte} {k : Int} (hi : exec ins = caesarCommand x k) :
    Follows ins
      (fun s => [(s.n > s.params.ibufCap, 0x085#32), (s.n > s.params.obufCap, 0x035#32),
        (x.toNat < 1 ∨ x.toNat > 25, 0x031#32)])
      fun s t => DeliversOnly false (caesar s.input k) s t ∧ t.olen = s.ilen := fun s => by
  have hlen : (caesar s.input k).length = s.n := by rw [length_caesar, input_length]
  rw [hi]
  exact checked_of_precheck <| checked_of_check Iff.rfl rfl fun _ =>
    ⟨_, rfl, deliversOnly_completed .., ofNat_length_eq_ilen hlen⟩

/-- Settles O52: the bytes of `caesar` are those of `shiftLetter`, and both commands are `caesarCommand`. -/
theorem caeseAndCaesdShiftLetters : Obligations.CaeseAndCaesdShiftLetters :=
  ⟨⟨rfl, rfl⟩, ⟨rfl, rfl⟩, ⟨rfl, rfl⟩,
    fun d k => ⟨length_caesar d k, fun _ v h => ⟨_, caesar_getElem? h k, shiftLetter_toNat v k⟩⟩,
    fun _ => follows_of_caesarCommand rfl, fun _ => follows_of_caesarCommand rfl⟩

/-! ## The cleaned key -/

/-- The letters in order, each upper-cased (45_legacy_caesar_vigenere R264). -/
theorem cleanKey_eq_map_filter (k : List Byte) :
    cleanKey k =
      (k.filter fun v => decide (isUpper v ∨ isLower v)).map fun v => if isLower v then v - 0x20#8 else v := by
  rw [cleanKey, ← List.filterMap_eq_map, ← List.filterMap_eq_filter, List.filterMap_filterMap]
  refine List.filterMap_congr fun v _ => ?_
  by_cases hu : isUpper v
  · have hl : ¬ isLower v := by omega
    rw [if_pos hu, Option.guard, if_pos (decide_eq_true (.inl hu)), Option.bind_some, Function.comp_apply, if_neg hl]
  · by_cases hl : isLower v
    · rw [if_neg hu, if_pos hl, Option.guard, if_pos (decide_eq_true (.inr hl)), Option.bind_some,
        Function.comp_apply, if_pos hl]
    · rw [if_neg hu, if_neg hl, Option.guard, if_neg (by rw [decide_eq_true_eq]; exact not_or.2 ⟨hu, hl⟩),
        Option.bind_none]

/-- Settles O53: the two checks in order, and a delivery of the cleaned key. -/
theorem vkclnDeliversTheCleanedKey : Obligations.VkclnDeliversTheCleanedKey :=
  ⟨⟨rfl, rfl⟩, cleanKey_eq_map_filter, fun _ => checked_of_check Iff.rfl rfl fun _ =>
    checked_of_check List.length_eq_zero_iff rfl fun _ => ⟨_, rfl, deliversOnly_completed ..⟩⟩

/-! ## The Vigenere transforms -/

/-- With a non-empty key every position has a key letter, the key used cyclically (45_legacy_caesar_vigenere R266). -/
theorem exists_keyLetter (hne : ck ≠ []) (j : Nat) : ∃ c ∈ ck, ck[j % ck.length]? = some c :=
  have hj : j % ck.length < ck.length := Nat.mod_lt _ (List.length_pos_iff.2 hne)
  ⟨ck[j % ck.length], List.getElem_mem hj, List.getElem?_eq_getElem hj⟩

/-- The shift of a key position is the place of its letter in the alphabet (45_legacy_caesar_vigenere R266). -/
theorem keyShift_of_keyLetter (h : ck[j % ck.length]? = some c) (hc : isUpper c) :
    (keyShift ck j : Int) = (c.toNat : Int) - 0x41 := by
  rw [keyShift, List.getD_eq_getElem?_getD, h, Option.getD_some]
  exact Int.ofNat_sub hc.1

/-- The cursor moves on at a letter (45_legacy_caesar_vigenere R266). -/
theorem lettersBefore_succ_of_letter (h : isUpper v ∨ isLower v) (i : Nat) (d : List Byte) :
    lettersBefore (i + 1) (v :: d) = lettersBefore i d + 1 :=
  List.countP_cons_of_pos (decide_eq_true h)

/-- The cursor stays at any other byte (45_legacy_caesar_vigenere R266). -/
theorem lettersBefore_succ_of_not_letter (h : ¬ (isUpper v ∨ isLower v)) (i : Nat) (d : List Byte) :
    lettersBefore (i + 1) (v :: d) = lettersBefore i d :=
  List.countP_cons_of_neg (by simpa using h)

/-- A byte of the text transform; a byte that is no letter is kept by `shiftLetter`, whatever the shift
(45_legacy_caesar_vigenere R266). -/
theorem vigTextFrom_getElem? (ck : List Byte) (sign : Int) (j : Nat) (h : d[i]? = some v) :
    (vigTextFrom ck sign j d)[i]? = some (shiftLetter v (sign * keyShift ck (j + lettersBefore i d))) := by
  induction d generalizing i j with
  | nil => simp at h
  | cons u d ih =>
    by_cases hu : isUpper u ∨ isLower u
    · rw [vigTextFrom, if_pos hu]
      cases i with
      | zero =>
        obtain rfl : u = v := Option.some.inj h
        rfl
      | succ i => rw [List.getElem?_cons_succ, ih (j + 1) h, lettersBefore_succ_of_letter hu, Nat.succ_add_eq_add_succ]
    · rw [vigTextFrom, if_neg hu]
      cases i with
      | zero =>
        obtain rfl : u = v := Option.some.inj h
        rw [shiftLetter_of_not_letter (fun h => hu (.inl h)) fun h => hu (.inr h)]
        rfl
      | succ i => rw [List.getElem?_cons_succ, ih j h, lettersBefore_succ_of_not_letter hu]

/-- A byte of the binary transform (45_legacy_caesar_vigenere R269). -/
theorem vigBinFrom_getElem? (ck : List Byte) (sign : Int) (j : Nat) (h : d[i]? = some v) :
    (vigBinFrom ck sign j d)[i]? = some (BitVec.ofInt 8 (v.toNat + sign * keyShift ck (j + i))) := by
  induction d generalizing i j with
  | nil => simp at h
  | cons u d ih =>
    cases i with
    | zero =>
      obtain rfl : u = v := Option.some.inj h
      rfl
    | succ i => rw [vigBinFrom, List.getElem?_cons_succ, ih (j + 1) h, Nat.succ_add_eq_add_succ]

/-- A byte is a number modulo 256 (45_legacy_caesar_vigenere R269). -/
theorem byte_ofInt_toNat (z : Int) : ((BitVec.ofInt 8 z).toNat : Int) = z % 256 := by
  rw [BitVec.toNat_ofInt]
  omega

/-- Settles O54: the bytes of the two transforms, with each key position's shift read off its key letter. -/
theorem vigenereTransformsEachByte : Obligations.VigenereTransformsEachByte := by
  intro d ck sign hne hck _
  refine ⟨length_vigText d ck sign, length_vigBin d ck sign, fun i v hv => ⟨?_, ?_⟩⟩
  · obtain ⟨c, hmem, hc⟩ := exists_keyLetter hne (lettersBefore i d)
    have hw := vigTextFrom_getElem? ck sign 0 hv
    rw [Nat.zero_add, keyShift_of_keyLetter hc (hck c hmem)] at hw
    exact ⟨c, _, hc, hw, shiftLetter_toNat v _⟩
  · obtain ⟨c, hmem, hc⟩ := exists_keyLetter hne i
    have hw := vigBinFrom_getElem? ck sign 0 hv
    rw [Nat.zero_add, keyShift_of_keyLetter hc (hck c hmem)] at hw
    exact ⟨c, _, hc, hw, byte_ofInt_toNat _⟩

/-- The four commands, each `vigenereCommand` with a transform that keeps the length: the three checks in order, and the
delivery (45_legacy_caesar_vigenere R267, R268, R270, R271). -/
theorem follows_of_vigenereCommand {f : List Byte → List Byte → List Byte} (hi : exec ins = vigenereCommand f)
    (hf : ∀ d ck, (f d ck).length = d.length) :
    Follows ins
      (fun s => [(s.n > s.params.ibufCap ∨ s.kn > s.params.kbufCap, 0x085#32), (s.n > s.params.obufCap, 0x035#32),
        (cleanKey s.key = [], 0x041#32)])
      fun s t => DeliversOnly false (f s.input (cleanKey s.key)) s t ∧ t.olen = s.ilen := fun s => by
  have hlen : (f s.input (cleanKey s.key)).length = s.n := by rw [hf, input_length]
  rw [hi]
  exact checked_of_check Iff.rfl rfl fun _ => checked_of_check Iff.rfl rfl fun _ =>
    checked_of_check List.length_eq_zero_iff rfl fun _ =>
      ⟨_, rfl, deliversOnly_completed .., ofNat_length_eq_ilen hlen⟩

/-- Settles O55: all four commands are `vigenereCommand`, with transforms that keep the length. -/
theorem vigenereCommandsDeliver : Obligations.VigenereCommandsDeliver := by
  refine ⟨⟨rfl, rfl⟩, ⟨rfl, rfl⟩, ⟨rfl, rfl⟩, ⟨rfl, rfl⟩, fun i f h => ?_⟩
  simp only [Prod.mk.injEq] at h
  obtain ⟨rfl, rfl⟩ | ⟨rfl, rfl⟩ | ⟨rfl, rfl⟩ | ⟨rfl, rfl⟩ := h
  · exact follows_of_vigenereCommand rfl fun d ck => length_vigText d ck 1
  · exact follows_of_vigenereCommand rfl fun d ck => length_vigText d ck (-1)
  · exact follows_of_vigenereCommand rfl fun d ck => length_vigBin d ck 1
  · exact follows_of_vigenereCommand rfl fun d ck => length_vigBin d ck (-1)

end Sys2Proof.Machine
end

section
/-! The legacy keystream (46_legacy_keystream): each byte of the generator and of the XOR with it, the four commands
that share one chain of checks, and the payload sniffer. -/

namespace Sys2Proof.Machine

open Sys2Proof

variable {s : State} {k : Out} {c d : List Byte} {i : Nat} {p : Params}

/-! ## The generator -/

/-- A field of a word that holds a number is the number shifted down to the field. -/
theorem extractLsb'_ofNat_of_lt {c : Nat} (hc : c < 2 ^ 32) (lo len : Nat) :
    (BitVec.ofNat 32 c).extractLsb' lo len = BitVec.ofNat len (c / 2 ^ lo) :=
  BitVec.eq_of_toNat_eq <| by
    rw [toNat_extractLsb'_eq, BitVec.toNat_ofNat, Nat.mod_eq_of_lt hc, BitVec.toNat_ofNat]

/-- The four bytes of the counter, most significant first (46_legacy_keystream R290). -/
theorem be32_of_lt {c : Nat} (hc : c < 2 ^ 32) :
    be32 c =
      [BitVec.ofNat 8 (c / 2 ^ 24), BitVec.ofNat 8 (c / 2 ^ 16), BitVec.ofNat 8 (c / 2 ^ 8), BitVec.ofNat 8 c] := by
  simp only [be32, Sha256.wordBytes, extractLsb'_ofNat_of_lt hc, Nat.pow_zero, Nat.div_one]

/-- Byte i of a concatenation of digests is byte i mod 32 of digest i div 32. -/
theorem getElem?_flatMap_digests (g : Nat → Digest) {m : Nat} (hi : i < 32 * m) :
    ((List.range m).flatMap fun j => (g j).toList)[i]? = (g (i / 32)).toList[i % 32]? := by
  induction m with
  | zero => omega
  | succ m ih =>
    have hlen : ((List.range m).flatMap fun j => (g j).toList).length = 32 * m := by simp [Nat.mul_comm]
    rw [List.range_succ, List.flatMap_append, List.flatMap_singleton]
    by_cases h : i < 32 * m
    · rw [List.getElem?_append_left (hlen ▸ h), ih h]
    · have hdiv : i / 32 = m := by omega
      have hmod : i % 32 = i - 32 * m := by omega
      rw [List.getElem?_append_right (by omega), hlen, hdiv, hmod]

/-- Byte i of the keystream (46_legacy_keystream R290). -/
theorem keystream_getElem? (H : List Byte → Digest) (start : Nat) (seed : List Byte) {n : Nat} (hi : i < n) :
    (keystream H start seed n)[i]? = (H (seed ++ be32 (start + i / 32))).toList[i % 32]? := by
  rw [keystream, List.getElem?_take_of_lt hi,
    getElem?_flatMap_digests (fun j => H (seed ++ be32 (start + j))) (by omega)]

/-- Byte i of the XOR (46_legacy_keystream R292). -/
theorem ksXor_getElem? {H : List Byte → Digest} {start : Nat} {seed : List Byte} {v u : Byte} (hv : d[i]? = some v)
    (hu : (keystream H start seed d.length)[i]? = some u) : (ksXor H start d seed)[i]? = some (v ^^^ u) := by
  rw [ksXor, List.getElem?_zipWith, hv, hu]

/-- The counter stays within its four bytes: a payload of fewer than 2^32 bytes takes at most 2^27 digests
(46_legacy_keystream R290). -/
theorem counter_lt (hp : p.Valid) {n : Nat} (hn : n ≤ p.ibufCap) (hi : i < n) : p.ksCtrInit + i / 32 < 2 ^ 32 := by
  obtain ⟨-, hcap, -, -, -, -, hinit⟩ := hp
  omega

/-- Settles O57: the bytes of the counter, of the keystream and of the XOR, and the bound of the counter. -/
theorem keystreamBytes : Obligations.KeystreamBytes :=
  ⟨fun _ => be32_of_lt,
    fun H c n seed => ⟨length_keystream H c seed n, fun _ => keystream_getElem? H c seed⟩,
    fun H c d seed => ⟨length_ksXor H c d seed, fun _ _ _ => ksXor_getElem?⟩,
    fun _ hp _ _ => counter_lt hp⟩

/-! ## The commands -/

/-- The checks that the four commands share (46_legacy_keystream R291, R293 to R295). -/
theorem checked_of_keystreamChecks {need : Nat} {rest : List (Prop × Word32)} {P : State → Prop}
    (h : ∃ t, k = .next t ∧ Checked s rest P t) :
    ∃ t, keystreamChecks need s k = .next t ∧
      Checked s ((s.n > s.params.ibufCap ∨ s.kn > s.params.kbufCap, 0x085#32) ::
        (need > s.params.obufCap, 0x035#32) :: (s.kn = 0, 0x021#32) :: rest) P t :=
  checked_of_check Iff.rfl rfl fun _ => checked_of_check Iff.rfl rfl fun _ => checked_of_check Iff.rfl rfl fun _ => h

/-- KSTD after the shared checks, with a payload that does not decode (46_legacy_keystream R294). -/
theorem exec_kstd_of_none (h : hexDec s.input = none) :
    exec .kstd s = keystreamChecks (s.n / 2) s (raise .hexMalformed s) := by
  simp only [exec, execKstd, h]

/-- KSTD after the shared checks, with a payload that decodes to c (46_legacy_keystream R294). -/
theorem exec_kstd_of_some (h : hexDec s.input = some c) :
    exec .kstd s = keystreamChecks (s.n / 2) s
      (check (utf8Valid (ksXor s.H s.params.ksCtrInit c s.key) = false) .utf8Invalid s
        (ok (deliver (ksXor s.H s.params.ksCtrInit c s.key) s))) := by
  simp only [exec, execKstd, h]

/-- Settles O58: the shared checks and a delivery of the length that the need says; KSTD's own checks after a case split
on the decoding. -/
theorem keystreamCommandsDeliver : Obligations.KeystreamCommandsDeliver := by
  have hxor : ∀ s : State, (ksXor s.H s.params.ksCtrInit s.input s.key).length = s.n := fun s => by
    rw [length_ksXor, input_length]
  refine ⟨⟨rfl, rfl⟩, ⟨rfl, rfl⟩, ⟨rfl, rfl⟩, ⟨rfl, rfl⟩, fun s => ?ksgen, fun s => ?kste, fun s => ?kstd,
    fun s => ?ksb⟩
  case ksgen =>
    exact checked_of_keystreamChecks ⟨_, rfl, deliversOnly_completed .., ofNat_length_eq_ilen (length_keystream ..)⟩
  case kste =>
    have hlen : (hexEnc (ksXor s.H s.params.ksCtrInit s.input s.key)).length = 2 * s.n := by
      rw [length_hexEnc, hxor]
    exact checked_of_keystreamChecks ⟨_, rfl, deliversOnly_completed .., congrArg (BitVec.ofNat 32) hlen⟩
  case kstd =>
    cases hc : hexDec s.input with
    | none =>
      rw [exec_kstd_of_none hc]
      exact checked_of_keystreamChecks <| checked_raise hc rfl
    | some c =>
      have hlen : (ksXor s.H s.params.ksCtrInit c s.key).length = s.n / 2 := by
        rw [length_ksXor, n_eq_of_hexDec_input hc]; omega
      rw [exec_kstd_of_some hc]
      exact checked_of_keystreamChecks <| checked_skip (by simp [hc]) <| checked_of_check (by simp [hc]) rfl fun _ =>
        ⟨_, rfl, c, hc, deliversOnly_completed .., congrArg (BitVec.ofNat 32) hlen⟩
  case ksb =>
    exact checked_of_keystreamChecks ⟨_, rfl, deliversOnly_completed .., ofNat_length_eq_ilen (hxor s)⟩

/-! ## The sniffer -/

/-- The first m bytes of `in` are the first of IBUF (00_scope R8). -/
theorem take_input (m : Nat) (s : State) : s.input.take m = memRead s.ibufByte 0 (min m s.n) := by
  rw [State.input, memRead, ← List.map_take, List.take_range, memRead]

/-- What the sniffer finds is a place below 1024 in IBUF (46_legacy_keystream R296). -/
theorem sniff_input_iff :
    sniff s.input = true ↔ ∃ i, i < min 1024 s.n ∧ (s.ibufByte i = 0x00#8 ∨ (s.ibufByte i).toNat > 0x7F) := by
  rw [sniff, take_input, memRead, List.any_map, List.any_eq_true]
  simp

/-- Settles O59: the range check, and RES by the case of `sniff_input_iff`; the rest is kept. -/
theorem sniffClassifiesThePayload : Obligations.SniffClassifiesThePayload :=
  ⟨⟨rfl, rfl⟩, fun s => checked_of_check Iff.rfl rfl fun _ => ⟨_, rfl, fun h => if_pos (sniff_input_iff.2 h),
    fun h => if_neg (mt sniff_input_iff.1 h), frame_of_wroteRes _ s⟩⟩

end Sys2Proof.Machine
end

section
/-! The default hash function (47_hash_port): SHA-256's constants as roots of primes, the padding, the words of a
message, the schedule and the rounds of a chunk, the chain of the chunks and the bytes of the digest. -/

namespace Sys2Proof.Machine

open Sys2Proof

namespace Sha256

variable {u chunk W : List Word32} {h : Eight} {w k : Word32} {i t n : Nat}

/-! ## The constants -/

/-- The first 64 primes, by trial division. -/
def firstPrimes : List Nat :=
  (List.range 312).filter fun n => decide (2 ≤ n ∧ ∀ d, d < n → 2 ≤ d → n % d ≠ 0)

/-- `w` is the first 32 bits of the fractional part of the n-th root of `p`: `a` is the whole part, and 2^32 times the
root lies between `2^32 a + w` and the number after it. A root below 8 is enough for the primes of 47_hash_port R312. -/
def IsRootFraction (n p : Nat) (w : Word32) : Prop :=
  ∃ a < 8, (2 ^ 32 * a + w.toNat) ^ n ≤ p * 2 ^ (32 * n) ∧ p * 2 ^ (32 * n) < (2 ^ 32 * a + w.toNat + 1) ^ n

/-- The words of a hash value, h[0] to h[7] (47_hash_port R314). -/
def Eight.words (h : Eight) : List Word32 := [h.a, h.b, h.c, h.d, h.e, h.f, h.g, h.h]

/-- The trial division, run once. -/
theorem firstPrimes_eq : firstPrimes =
    [2, 3, 5, 7, 11, 13, 17, 19, 23, 29, 31, 37, 41, 43, 47, 53, 59, 61, 67, 71, 73, 79,
      83, 89, 97, 101, 103, 107, 109, 113, 127, 131, 137, 139, 149, 151, 157, 163, 167, 173, 179, 181, 191, 193,
      197, 199, 211, 223, 227, 229, 233, 239, 241, 251, 257, 263, 269, 271, 277, 281, 283, 293, 307, 311] := by
  decide +kernel

theorem length_firstPrimes : firstPrimes.length = 64 := by rw [firstPrimes_eq]; rfl

theorem roundConstants_are_cubeRoots : ∀ q ∈ firstPrimes.zip roundConstants, IsRootFraction 3 q.1 q.2 := by
  rw [firstPrimes_eq]
  unfold IsRootFraction
  decide +kernel

theorem initial_are_squareRoots : ∀ q ∈ firstPrimes.zip initial.words, IsRootFraction 2 q.1 q.2 := by
  rw [firstPrimes_eq]
  unfold IsRootFraction
  decide +kernel

/-- What holds of two lists' pairs holds of their elements at one place. -/
theorem of_zip_of_getElem? {α β : Type} {P : α → β → Prop} {l : List α} {r : List β} {a : α} {b : β}
    (hP : ∀ q ∈ l.zip r, P q.1 q.2) (ha : l[i]? = some a) (hb : r[i]? = some b) : P a b :=
  hP (a, b) <| List.mem_of_getElem? <| List.getElem?_zip_eq_some.2 ⟨ha, hb⟩

/-! ## Bytes and words -/

/-- The bytes of a word, most significant first (47_hash_port R314). -/
theorem wordBytes_eq (w : Word32) :
    wordBytes w = [BitVec.ofNat 8 (w.toNat / 2 ^ 24), BitVec.ofNat 8 (w.toNat / 2 ^ 16),
      BitVec.ofNat 8 (w.toNat / 2 ^ 8), BitVec.ofNat 8 w.toNat] := by
  rw [← be32_of_lt w.isLt, be32, BitVec.ofNat_toNat, BitVec.setWidth_eq]

/-- The bytes of a word, read as a number in base 256 after `acc`, are the word after `acc`. -/
theorem foldl_wordBytes (acc : Nat) (w : Word32) :
    (wordBytes w).foldl (fun acc v => 256 * acc + v.toNat) acc = 2 ^ 32 * acc + w.toNat := by
  have hw := w.isLt
  simp only [wordBytes_eq, List.foldl_cons, List.foldl_nil, BitVec.toNat_ofNat]
  omega

/-- Byte i of a list of words is byte i mod 4 of word i div 4. -/
theorem getElem?_flatMap_wordBytes : ∀ (l : List Word32) (i : Nat), l[i / 4]? = some w →
    (l.flatMap wordBytes)[i]? = some (BitVec.ofNat 8 (w.toNat / 2 ^ (8 * (3 - i % 4))))
  | x :: l, 0, hw | x :: l, 1, hw | x :: l, 2, hw | x :: l, 3, hw => by
    obtain rfl : x = w := by simpa using hw
    simp [wordBytes_eq]
  | x :: l, i + 4, hw => by
    have hw' : l[i / 4]? = some w := by simpa using hw
    simpa [wordBytes_eq] using getElem?_flatMap_wordBytes l i hw'

/-- A byte appended below a bit vector is a digit in base 256. -/
theorem toNat_append_byte (v : BitVec n) (b : Byte) : (v ++ b).toNat = 2 ^ 8 * v.toNat + b.toNat := by
  rw [BitVec.toNat_append, ← Nat.shiftLeft_add_eq_or_of_lt b.isLt, Nat.shiftLeft_eq, Nat.mul_comm]

/-- Four bytes as a number, most significant first (47_hash_port R313). -/
theorem wordOf_toNat (b0 b1 b2 b3 : Byte) :
    (wordOf b0 b1 b2 b3).toNat = 2 ^ 24 * b0.toNat + 2 ^ 16 * b1.toNat + 2 ^ 8 * b2.toNat + b3.toNat := by
  simp only [wordOf, toNat_append_byte]
  omega

theorem length_wordsOf : ∀ d : List Byte, (wordsOf d).length = d.length / 4
  | _ :: _ :: _ :: _ :: rest => by
    simp only [wordsOf, List.length_cons, length_wordsOf rest]
    omega
  | [] | [_] | [_, _] | [_, _, _] => by simp [wordsOf]

/-- Word t of a byte sequence is its bytes 4 t to 4 t + 3 (47_hash_port R313). -/
theorem wordsOf_getElem? {b0 b1 b2 b3 : Byte} : ∀ (d : List Byte) (t : Nat), d[4 * t]? = some b0 →
    d[4 * t + 1]? = some b1 → d[4 * t + 2]? = some b2 → d[4 * t + 3]? = some b3 →
    (wordsOf d)[t]? = some (wordOf b0 b1 b2 b3)
  | _ :: _ :: _ :: _ :: _, 0, rfl, rfl, rfl, rfl => rfl
  | _ :: _ :: _ :: _ :: rest, t + 1, h0, h1, h2, h3 => wordsOf_getElem? rest t h0 h1 h2 h3

/-! ## The padding -/

/-- The zero bytes that R313 appends to a message of n bytes. -/
def zeroCount (n : Nat) : Nat := (119 - n % 64) % 64

/-- The bit length of a message of n bytes, as the 8 bytes that R313 appends. -/
def lengthBytes (n : Nat) : List Byte :=
  wordBytes (BitVec.ofNat 32 (8 * n / 2 ^ 32)) ++ wordBytes (BitVec.ofNat 32 (8 * n))

theorem padMessage_eq (m : List Byte) :
    padMessage m = m ++ [0x80#8] ++ List.replicate (zeroCount m.length) 0#8 ++ lengthBytes m.length := by
  rw [padMessage, zeroCount, lengthBytes, List.append_assoc _ (wordBytes _)]

theorem zeroCount_lt (n : Nat) : zeroCount n < 64 := Nat.mod_lt _ (by decide)

theorem zeroCount_reaches (n : Nat) : (n + 1 + zeroCount n) % 64 = 56 := by
  unfold zeroCount
  omega

theorem length_lengthBytes (n : Nat) : (lengthBytes n).length = 8 := rfl

theorem foldl_lengthBytes (hn : 8 * n < 2 ^ 64) :
    (lengthBytes n).foldl (fun acc v => 256 * acc + v.toNat) 0 = 8 * n := by
  rw [lengthBytes, List.foldl_append, foldl_wordBytes, foldl_wordBytes, BitVec.toNat_ofNat, BitVec.toNat_ofNat]
  omega

/-! ## The schedule and the rounds of a chunk -/

theorem length_extend (w : List Word32) : (extend w).length = w.length + 1 := by simp [extend]

theorem length_iterate_extend (n : Nat) (w : List Word32) : (extend^[n] w).length = w.length + n := by
  induction n with
  | zero => rfl
  | succ n ih => rw [Function.iterate_succ_apply', length_extend, ih, Nat.add_assoc]

/-- Extending keeps the words that are there. -/
theorem prefix_iterate_extend (n : Nat) (w : List Word32) : w <+: extend^[n] w := by
  induction n with
  | zero => exact List.prefix_rfl
  | succ n ih =>
    rw [Function.iterate_succ_apply']
    exact ih.trans (List.prefix_append ..)

theorem length_messageSchedule (hc : chunk.length = 16) : (messageSchedule chunk).length = 64 := by
  rw [messageSchedule, length_iterate_extend, hc]

/-- The schedule begins with `extend` of its own first t + 16 words, for each of the 48 words that it adds. -/
theorem exists_extend_prefix (hc : chunk.length = 16) (ht : t < 48) :
    ∃ u : List Word32, u.length = t + 16 ∧ extend u <+: messageSchedule chunk := by
  refine ⟨extend^[t] chunk, by rw [length_iterate_extend, hc, Nat.add_comm], ?_⟩
  have hsplit : messageSchedule chunk = extend^[47 - t] (extend (extend^[t] chunk)) := by
    have h48 : 48 = 47 - t + (t + 1) := by omega
    rw [messageSchedule, h48, Function.iterate_add_apply, Function.iterate_succ_apply' extend t]
  rw [hsplit]
  exact prefix_iterate_extend ..

/-- A word that was there before `extend` stands in every list that begins with the extended one. -/
theorem getElem?_of_extend_prefix (hp : extend u <+: W) (hi : i < u.length) : W[i]? = some u[i] :=
  List.prefix_iff_getElem?.1 ((List.prefix_append ..).trans hp) i hi

/-- The recurrence of 47_hash_port R314, at the word after `u`. -/
theorem getElem?_extend_last (hu : u.length = t + 16) :
    (extend u)[t + 16]? = some (smallSigma1 u[t + 14] + u[t + 9] + smallSigma0 u[t + 1] + u[t]) := by
  simp [extend, hu]

/-- The running words of a chunk before round t (47_hash_port R314). -/
def roundState (h : Eight) (chunk : List Word32) (t : Nat) : Eight :=
  ((roundConstants.zip (messageSchedule chunk)).take t).foldl round h

theorem roundState_zero (h : Eight) (chunk : List Word32) : roundState h chunk 0 = h := rfl

theorem roundState_succ (hk : roundConstants[t]? = some k) (hw : (messageSchedule chunk)[t]? = some w) :
    roundState h chunk (t + 1) = round (roundState h chunk t) (k, w) := by
  have hkw : (roundConstants.zip (messageSchedule chunk))[t]? = some (k, w) := List.getElem?_zip_eq_some.2 ⟨hk, hw⟩
  rw [roundState, List.take_add_one, hkw, List.foldl_append]
  rfl

theorem words_compress (h : Eight) (chunk : List Word32) :
    (compress h chunk).words = List.zipWith (fun x y => x + y) h.words (roundState h chunk 64).words := by
  have hall : (roundConstants.zip (messageSchedule chunk)).take 64 = roundConstants.zip (messageSchedule chunk) :=
    List.take_of_length_le (List.length_zip ▸ Nat.min_le_left ..)
  rw [roundState, hall]
  rfl

/-! ## The chain of the chunks and the digest -/

/-- The last chunk of the n + 1 is compressed after the first n. -/
theorem compressAll_succ (n : Nat) (h : Eight) (w : List Word32) :
    compressAll (n + 1) h w = compress (compressAll n h w) ((w.drop (16 * n)).take 16) := by
  induction n generalizing h w with
  | zero => rfl
  | succ n ih =>
    rw [compressAll, ih, compressAll, List.drop_drop, Nat.mul_succ, Nat.add_comm 16]

theorem toList_digestOf (h : Eight) : (digestOf h).toList = h.words.flatMap wordBytes := rfl

/-- The chunks of a padded message are those of its words. -/
theorem toList_sha256 (m : List Byte) :
    (sha256 m).toList =
      (compressAll ((padMessage m).length / 64) initial (wordsOf (padMessage m))).words.flatMap wordBytes := by
  rw [sha256, toList_digestOf, length_wordsOf, Nat.div_div_eq_div_mul]

end Sha256

open Sha256

/-- Settles O38: the functions unfold, the constants are compared prime by prime, the schedule begins with `extend` of
its own words, `roundState` is the running value of the rounds and `compressAll` that of the chunks. -/
theorem sha256FollowsItsDefinition : Obligations.Sha256FollowsItsDefinition := by
  refine ⟨fun x y z => ⟨rfl, rfl, rfl, rfl, rfl, rfl⟩,
    ⟨length_firstPrimes, rfl, fun i p k hp hk => ?cube, fun i p h hp hh => ?square⟩,
    fun m => ⟨zeroCount m.length, lengthBytes m.length, zeroCount_lt _, zeroCount_reaches _, length_lengthBytes _,
      padMessage_eq m, foldl_lengthBytes⟩,
    fun d => ⟨length_wordsOf d, fun t b0 b1 b2 b3 h0 h1 h2 h3 =>
      ⟨_, wordsOf_getElem? d t h0 h1 h2 h3, wordOf_toNat ..⟩⟩,
    fun h chunk hc => ⟨messageSchedule chunk, roundState h chunk, length_messageSchedule hc, ?chunk,
      fun t ht => ?word, roundState_zero h chunk, fun t ht => ?round, words_compress h chunk⟩,
    fun m => ⟨fun j => compressAll j initial (wordsOf (padMessage m)), rfl, fun j _ => compressAll_succ j _ _,
      fun i w hw => ?digest⟩⟩
  case cube =>
    obtain ⟨a, -, ha⟩ := of_zip_of_getElem? roundConstants_are_cubeRoots hp hk
    exact ⟨a, ha⟩
  case square =>
    obtain ⟨a, -, ha⟩ := of_zip_of_getElem? initial_are_squareRoots hp hh
    exact ⟨a, ha⟩
  case chunk => exact hc ▸ (List.prefix_iff_eq_take.1 (prefix_iterate_extend ..)).symm
  case word =>
    obtain ⟨u, hu, hp⟩ := exists_extend_prefix hc ht
    have hlast : t + 16 < (extend u).length := by rw [length_extend]; omega
    refine ⟨u[t + 14], u[t + 9], u[t + 1], u[t], getElem?_of_extend_prefix hp _, getElem?_of_extend_prefix hp _,
      getElem?_of_extend_prefix hp _, getElem?_of_extend_prefix hp _, ?_⟩
    rw [List.prefix_iff_getElem?.1 hp _ hlast, ← List.getElem?_eq_getElem, getElem?_extend_last hu]
  case round =>
    have hk : t < roundConstants.length := ht
    have hw : t < (messageSchedule chunk).length := by rwa [length_messageSchedule hc]
    exact ⟨_, _, _, _, List.getElem?_eq_getElem hk, List.getElem?_eq_getElem hw, rfl, rfl,
      roundState_succ (List.getElem?_eq_getElem hk) (List.getElem?_eq_getElem hw)⟩
  case digest =>
    rw [toList_sha256]
    exact getElem?_flatMap_wordBytes _ i hw

end Sys2Proof.Machine
end

section
/-! Decode and encode agree (30_encoding R90, R91, R98, R106). A row takes its operands from the word's bits under its
format's mask, so the command gives the word back; the fields of a command's word are its operands, so the word gives
the command back. -/

namespace Sys2Proof.Machine

open Sys2Proof

variable {i : Instr} {w : Word32}

/-! ## From a word to its command and back -/

/-- The bits of a format's operand fields, the opcode left out (30_encoding R91). -/
def operandMask (f : Format) : Word32 := f.fieldMask &&& 0xFFFFFF00#32

/-- Fields A and B at their places are the word under format G's mask (30_encoding R91). -/
theorem byteFields_eq_and (w : Word32) : 0#8 ++ bField w ++ aField w ++ 0#8 = w &&& operandMask .G := by
  ext j hj
  simp only [bField, aField, BitVec.getElem_append, BitVec.getElem_and]
  interval_cases j <;> simp [operandMask, Format.fieldMask]

/-- Field RIDX at its place is the word under format R's mask (30_encoding R91). -/
theorem ridxField_eq_and (w : Word32) : 0#12 ++ ridxField w ++ 0#16 = w &&& operandMask .R := by
  ext j hj
  simp only [ridxField, BitVec.getElem_append, BitVec.getElem_and]
  interval_cases j <;> simp [operandMask, Format.fieldMask]

/-- Field KS at its place is the word under format K's mask (30_encoding R91). -/
theorem ksField_eq_and (w : Word32) : 0#22 ++ ksField w ++ 0#8 = w &&& operandMask .K := by
  ext j hj
  simp only [ksField, BitVec.getElem_append, BitVec.getElem_and]
  interval_cases j <;> simp [operandMask, Format.fieldMask]

/-- Field SHIFT at its place is the word under format C's mask (30_encoding R91). -/
theorem shiftField_eq_and (w : Word32) : 0#8 ++ shiftField w ++ 0#16 = w &&& operandMask .C := by
  ext j hj
  simp only [shiftField, BitVec.getElem_append, BitVec.getElem_and]
  interval_cases j <;> simp [operandMask, Format.fieldMask]

/-- Format N has no operand field (30_encoding R91). -/
theorem noField_eq_and (w : Word32) : 0#32 = w &&& operandMask .N := (BitVec.and_zero (x := w)).symm

/-- The operands that a row takes from a word are the word's bits under the row's mask (30_encoding R98). -/
theorem operandBits_of_rowOf (h : rowOf i.opcode w = some (i.format, i)) :
    i.operandBits = w &&& operandMask i.format := by
  cases i with
  | gfmul => cases h; exact byteFields_eq_and w
  | ark | rdrk => cases h; exact ridxField_eq_and w
  | kexp | kdf | aeste | aestd | aesfe | aesfd => cases h; exact ksField_eq_and w
  | caese | caesd => cases h; exact shiftField_eq_and w
  | _ => exact noField_eq_and w

/-- The opcode of a word is its low byte (30_encoding R90). -/
theorem opcField_setWidth (w : Word32) : (opcField w).setWidth 32 = w &&& 0x000000FF#32 := by
  ext j hj
  simp only [opcField, BitVec.getElem_setWidth, BitVec.getElem_and]
  interval_cases j <;> simp

/-- A format's fields and the opcode are all the bits that its mask keeps (30_encoding R106). -/
theorem operandMask_or_opcode (f : Format) : operandMask f ||| 0x000000FF#32 = f.fieldMask := by
  cases f <;> rfl

/-- What the decoder answers, read off the word: its opcode, its reserved bits, and its row (30_encoding R106). -/
theorem decode_eq_ok_iff : decode w = .ok i ↔
    opcField w = i.opcode ∧ w &&& ~~~ i.format.fieldMask = 0#32 ∧ rowOf i.opcode w = some (i.format, i) := by
  refine ⟨fun h => ?_, fun ⟨ho, hw, hr⟩ => decode_of_row (ho ▸ hr) hw⟩
  cases hr : rowOf (opcField w) w with
  | none => simp [decode_of_no_row hr] at h
  | some r =>
    obtain ⟨f, j⟩ := r
    obtain ⟨ho, hf⟩ := opcode_format_of_rowOf hr
    by_cases hw : w &&& ~~~ f.fieldMask = 0#32
    · cases (decode_of_row hr hw).symm.trans h
      subst hf
      exact ⟨ho.symm, hw, ho ▸ hr⟩
    · simp [decode_of_reserved hr hw] at h

/-- A word with no bit outside a mask is the word under the mask. -/
theorem and_eq_self_of_and_not {m : Word32} (h : w &&& ~~~ m = 0#32) : w &&& m = w := by
  calc w &&& m = (w &&& m) ||| (w &&& ~~~ m) := by rw [h, BitVec.or_zero]
    _ = w := by rw [← BitVec.and_or_distrib_left, BitVec.or_not_self, BitVec.and_allOnes]

/-- Settles O2: the word is its opcode and its bits under the format's mask, and those are the command's operands. -/
theorem encodeOfDecodeIsTheWord : Obligations.EncodeOfDecodeIsTheWord := by
  intro w i h
  obtain ⟨ho, hw, hr⟩ := decode_eq_ok_iff.1 h
  calc encode i = (w &&& operandMask i.format) ||| (w &&& 0x000000FF#32) := by
        rw [encode, operandBits_of_rowOf hr, ← ho, opcField_setWidth]
    _ = w &&& i.format.fieldMask := by rw [← BitVec.and_or_distrib_left, operandMask_or_opcode]
    _ = w := and_eq_self_of_and_not hw

/-! ## From a command to its word and back -/

/-- A command's operands lie within its format's fields (30_encoding R91). -/
theorem operandBits_and_not (i : Instr) : i.operandBits &&& ~~~ operandMask i.format = 0#32 := by
  cases i with
  | gfmul a b => exact Laws.EncodingMatchesRow.byteFields_clear a b
  | ark rd | rdrk rd => exact Laws.EncodingMatchesRow.ridxField_clear rd
  | kexp ks | kdf ks | aeste ks | aestd ks | aesfe ks | aesfd ks => exact Laws.EncodingMatchesRow.ksField_clear ks
  | caese x | caesd x => exact Laws.EncodingMatchesRow.shiftField_clear x
  | _ => rfl

/-- The operands leave the low byte to the opcode (30_encoding R90). -/
theorem opcField_encode (i : Instr) : opcField (encode i) = i.opcode := by
  have hx : i.operandBits.extractLsb' 0 8 = 0#8 := by
    rw [← and_eq_self_of_and_not (operandBits_and_not i), operandMask, BitVec.extractLsb'_and, BitVec.extractLsb'_and]
    exact (congrArg _ (BitVec.and_zero (w := 8))).trans BitVec.and_zero
  have ho : ∀ b : Byte, (b.setWidth 32 : Word32).extractLsb' 0 8 = b := by decide
  rw [opcField, encode, BitVec.extractLsb'_or, hx, ho, BitVec.zero_or]

/-- A command's word has no reserved bit (30_encoding R91). -/
theorem encode_and_not (i : Instr) : encode i &&& ~~~ i.format.fieldMask = 0#32 := by
  have ho : ∀ b : Byte, (b.setWidth 32 : Word32) &&& ~~~ 0x000000FF#32 = 0#32 := by decide
  calc encode i &&& ~~~ i.format.fieldMask
      = (i.operandBits &&& ~~~ operandMask i.format &&& ~~~ 0x000000FF#32) |||
          (i.opcode.setWidth 32 &&& ~~~ 0x000000FF#32 &&& ~~~ operandMask i.format) := by
        rw [← operandMask_or_opcode, BitVec.not_or, encode, BitVec.and_or_distrib_right, BitVec.and_assoc,
          BitVec.and_assoc, BitVec.and_comm (~~~ operandMask i.format)]
    _ = 0#32 := by rw [operandBits_and_not, ho, BitVec.zero_and, BitVec.zero_and, BitVec.or_zero]

/-- The field that is placed above `l` bits of a word, the opcode among them, is read back (30_encoding R97). -/
theorem extractLsb'_of_placed {m n l : Nat} (hl : 8 ≤ l) (y : BitVec m) (x : BitVec n) (z : BitVec l) (o : Byte) :
    (y ++ x ++ z ||| o.setWidth (m + n + l)).extractLsb' l n = x := by
  ext j hj
  have ho : o.getLsbD (l + j) = false := BitVec.getLsbD_of_ge _ _ (by omega)
  have hx : l + j - l = j := by omega
  simp [BitVec.getLsbD_append, ho, hj, hx]

/-- Field A of GFMUL's word (30_encoding R97). -/
theorem aField_encode_gfmul (a b : Byte) : aField (encode (.gfmul a b)) = a := extractLsb'_of_placed le_rfl ..

/-- Field B of GFMUL's word (30_encoding R97). -/
theorem bField_encode_gfmul (a b : Byte) : bField (encode (.gfmul a b)) = b := by
  have hb : (0#8 ++ b ++ a ++ 0#8 : Word32) = 0#8 ++ b ++ (a ++ 0#8) := BitVec.append_assoc
  rw [encode, Instr.operandBits, hb]
  exact extractLsb'_of_placed (by decide) ..

/-- The row of a command, at the command's own word, gives the command back (30_encoding R98). -/
theorem rowOf_encode (i : Instr) : rowOf i.opcode (encode i) = some (i.format, i) := by
  have hl8 : 8 ≤ 8 := le_rfl
  have hl16 : 8 ≤ 16 := by decide
  cases i with
  | gfmul a b =>
    exact congrArg₂ (fun x y => some (Format.G, Instr.gfmul x y)) (aField_encode_gfmul a b) (bField_encode_gfmul a b)
  | ark rd => exact congrArg (fun x => some (Format.R, Instr.ark x)) (extractLsb'_of_placed hl16 ..)
  | rdrk rd => exact congrArg (fun x => some (Format.R, Instr.rdrk x)) (extractLsb'_of_placed hl16 ..)
  | kexp ks => exact congrArg (fun x => some (Format.K, Instr.kexp x)) (extractLsb'_of_placed hl8 ..)
  | kdf ks => exact congrArg (fun x => some (Format.K, Instr.kdf x)) (extractLsb'_of_placed hl8 ..)
  | aeste ks => exact congrArg (fun x => some (Format.K, Instr.aeste x)) (extractLsb'_of_placed hl8 ..)
  | aestd ks => exact congrArg (fun x => some (Format.K, Instr.aestd x)) (extractLsb'_of_placed hl8 ..)
  | aesfe ks => exact congrArg (fun x => some (Format.K, Instr.aesfe x)) (extractLsb'_of_placed hl8 ..)
  | aesfd ks => exact congrArg (fun x => some (Format.K, Instr.aesfd x)) (extractLsb'_of_placed hl8 ..)
  | caese x => exact congrArg (fun x => some (Format.C, Instr.caese x)) (extractLsb'_of_placed hl16 ..)
  | caesd x => exact congrArg (fun x => some (Format.C, Instr.caesd x)) (extractLsb'_of_placed hl16 ..)
  | _ => rfl

/-- Settles O1: the word of a command has the command's opcode, no reserved bit, and its operands in its fields. -/
theorem decodeOfEncodeIsTheCommand : Obligations.DecodeOfEncodeIsTheCommand := fun i =>
  decode_eq_ok_iff.2 ⟨opcField_encode i, encode_and_not i, rowOf_encode i⟩

/-- Settles O6: each word is decoded. -/
theorem sampleWordsDecode : Obligations.SampleWordsDecode := by
  unfold Obligations.SampleWordsDecode
  decide

end Sys2Proof.Machine
end

section
/-! What every step and every run keeps (10_state R20, 60_exceptions R330 to R332, 93_implementation_defined, end of
part 1). A command ends in one of the ways of `Ends` (Laws/Exec), so it has a next state and keeps the invariant; a host
action has a next state and keeps it too; a run is such steps one after the other. -/

namespace Sys2Proof.Machine

open Sys2Proof

variable {i : Instr} {s t : State} {w : Word32}

/-! ## A step -/

/-- Issuing a word that decodes runs its command (10_state R35). -/
theorem issue_of_decode (h : decode w = .ok i) (s : State) : issue w s = exec i s := by
  simp [issue, h]

/-- A table row's word that the decoder accepts (30_encoding R106). -/
theorem decode_of_decodeTableWord {nbits n : Nat} (h : decodeTableWord nbits n = some i) :
    decode (tableWord nbits n) = .ok i := by
  unfold decodeTableWord at h
  split at h
  · rename_i j hj
    cases h
    exact hj
  · cases h

/-- Settles O7: a step performs the head of the host's actions, and a CMD write issues its word. -/
theorem stepRunsTheDecodedCommand : Obligations.StepRunsTheDecodedCommand := by
  refine ⟨fun s w rest i hs hw => ?_, fun s nbits n i h => ?_, fun s hs => by simp [step, hs]⟩
  · rw [step_of_inbox hs]
    exact issue_of_decode hw _
  · exact issue_of_decode (decode_of_decodeTableWord h) s

/-- What issuing a word does: a decoding error, or the word's command (10_state R35, 30_encoding R106). -/
theorem issue_cases (w : Word32) (s : State) :
    (∃ c, issue w s = raise c s) ∨ ∃ i, issue w s = exec i s := by
  unfold issue
  split
  · exact .inl ⟨_, rfl⟩
  · exact .inl ⟨_, rfl⟩
  · exact .inr ⟨_, rfl⟩

/-- Issuing a word has a next state. -/
theorem issue_next (w : Word32) (s : State) : ∃ t, issue w s = .next t := by
  obtain ⟨c, h⟩ | ⟨i, h⟩ := issue_cases w s
  · exact ⟨_, h⟩
  · obtain ⟨t, ht, -⟩ := exec_ends i s
    exact ⟨t, h.trans ht⟩

/-- Every host action has a next state (20_memory R63). -/
theorem hostAct_next (a : HostAction) (s : State) : ∃ t, hostAct a s = .next t := by
  cases a with
  | writeReg n v =>
    by_cases hn : n = 0
    · subst hn
      exact issue_next v s
    · exact ⟨_, hostAct_writeReg_of_ne_zero hn v s⟩
  | writeBuf | readBuf | readReg | reset => exact ⟨_, rfl⟩

/-- Settles O8: a step waits or performs a host action, and each has a next state. -/
theorem everyStepHasANextState : Obligations.EveryStepHasANextState := by
  intro s
  cases hs : s.inbox with
  | nil => exact ⟨s, by simp [step, hs]⟩
  | cons a rest =>
    rw [step_of_inbox hs]
    exact hostAct_next a _

/-! ## The ways a command can end -/

/-- The seventeen STATUS words of the causes (60_exceptions R321). -/
theorem map_errorStatus_allCauses :
    allCauses.map errorStatus =
      [0x011#32, 0x021#32, 0x031#32, 0x041#32, 0x051#32, 0x012#32, 0x022#32, 0x032#32, 0x013#32, 0x015#32, 0x025#32,
       0x035#32, 0x045#32, 0x055#32, 0x065#32, 0x075#32, 0x085#32] := by
  decide

theorem mem_allCauses (c : Cause) : c ∈ allCauses := by
  cases c <;> decide

/-- `ok(w)` is a success with warning bit w (00_scope R8). -/
theorem succeeded_completed (w : Bool) (s : State) : Succeeded w (s.completed w) := by
  cases w <;> rfl

/-- A command succeeds, with WARN for UNPADV and AESFD alone, reports a cause of its row, or is AESTD with its late
error. -/
theorem Ends.succeeded_or_failed (h : Ends i s t) :
    Succeeded false t ∨ (Succeeded true t ∧ (i = .unpadv ∨ ∃ ks, i = .aesfd ks)) ∨
      (∃ c ∈ causesOf i, FailsWith (errorStatus c) s t ∧ ∀ ks, i = .aestd ks → c ≠ .utf8Invalid) ∨
      (∃ ks, i = .aestd ks ∧ FailsLate s t) := by
  have hend {w : Bool} {u : State} (hw : w = true → i = .unpadv ∨ ∃ ks, i = .aesfd ks) :
      Succeeded false (u.completed w) ∨ (Succeeded true (u.completed w) ∧ (i = .unpadv ∨ ∃ ks, i = .aesfd ks)) := by
    cases w with
    | false => exact .inl (succeeded_completed false u)
    | true => exact .inr ⟨succeeded_completed true u, hw rfl⟩
  cases h with
  | raised c hc hl => exact .inr (.inr (.inl ⟨c, hc, failsWith_raised s c, hl⟩))
  | late ks hi => exact .inr (.inr (.inr ⟨ks, hi, failsLate_raised s⟩))
  | delivered w d _ _ _ hw => exact (hend fun h => .inl (hw h)).imp_right .inl
  | payload w d ks _ hw => exact (hend fun h => .inr ⟨ks, hw h⟩).imp_right .inl
  | wroteRes | wroteState | wroteSchedule | closed | passed | block => exact .inl (succeeded_completed false _)

/-- Settles O18: the codes by evaluation, the ways a command can end by `Ends.succeeded_or_failed`. -/
theorem everyCommandSucceedsOrReportsOneCause : Obligations.EveryCommandSucceedsOrReportsOneCause :=
  ⟨map_errorStatus_allCauses, mem_allCauses,
    fun i s => (exec_ends i s).imp fun _ h => ⟨h.1, h.2.succeeded_or_failed⟩⟩

/-! ## The invariant of a command -/

/-- The small needs but VKCLN's are at most a key (20_memory R72). -/
theorem smallNeedOf_le_key {need kn : Nat} (h : smallNeedOf kn i = some need) (hi : i ≠ .vkcln) : need ≤ 32 := by
  cases i with
  | stst | rdrk | encb | decb => cases h; decide
  | kdf ks =>
    obtain ⟨size, -, rfl⟩ := Option.map_eq_some_iff.1 h
    exact size.bytes_le
  | vkcln => exact absurd rfl hi
  | _ => cases h

/-- Every delivery fits OBUF under the constraints of 00_scope R6. -/
theorem Fits.length_le_cap {d : List Byte} (hf : Fits i s d) (hp : s.params.Valid) : d.length ≤ s.params.obufCap := by
  obtain ⟨need, -, hd, hcap⟩ | ⟨need, hn, -, hd, hk⟩ := hf
  · exact hd.trans hcap
  · obtain ⟨-, -, hobuf, -⟩ := hp
    by_cases hi : i = .vkcln
    · have hkn := hk hi
      subst hi
      obtain rfl : s.kn = need := Option.some.inj hn
      omega
    · have := smallNeedOf_le_key hn hi
      omega

/-- An error keeps the invariant (60_exceptions R330). -/
theorem State.Inv.raised (h : s.Inv) (c : Cause) : (s.raised c).Inv :=
  { h with
    obuf_wf := rfl
    obuf_keys := rfl
    olen_cap := Nat.zero_le _
    status_legal := raised_status_legal s c
    error_empties := fun _ => rfl }

/-- A success keeps the invariant (00_scope R8). -/
theorem State.Inv.completed (h : s.Inv) (w : Bool) : (s.completed w).Inv :=
  { h with
    status_legal := completed_status_legal s w
    error_empties := fun he => absurd (completed_err s w) he }

/-- A delivery that fits OBUF, ended by `ok(w)`, keeps the invariant (10_state R31). -/
theorem State.Inv.delivered (h : s.Inv) {d : List Byte} (hd : d.length ≤ s.params.obufCap) (w : Bool) :
    ((deliver d s).completed w).Inv := by
  obtain ⟨-, -, -, hcap, -⟩ := h.params_valid
  have hlen : (BitVec.ofNat 32 d.length).toNat = d.length := toNat_ofNat_length (by omega)
  exact { h with
    obuf_wf := Memory.bytesFrom_wf 0 d
    obuf_keys := by
      show (Memory.bytesFrom 0 d).map Prod.fst = List.range (BitVec.ofNat 32 d.length).toNat
      rw [hlen, Memory.bytesFrom_zero_map_fst]
    olen_cap := hlen.trans_le hd
    status_legal := completed_status_legal _ w
    error_empties := fun he => absurd (completed_err _ w) he }

/-- Closing the session keeps the invariant (44_mode_sequencer R219). -/
theorem State.Inv.endSession (h : s.Inv) : (endSession s).Inv :=
  { h with schedule_length := fun _ hs => nomatch hs }

/-- Every end of a command keeps the invariant. -/
theorem Ends.inv (h : Ends i s t) (hs : s.Inv) : t.Inv := by
  cases h with
  | raised c => exact hs.raised c
  | late => exact hs.endSession.raised _
  | wroteRes v => exact State.Inv.completed (s := { s with res := v }) { hs with } false
  | wroteState S => exact State.Inv.completed (s := { s with aesState := some S }) { hs with } false
  | wroteSchedule sch ks hi hk hl =>
    have hrk : ∀ sch', some sch = some sch' → sch'.words.length = 4 * (sch'.size.rounds + 1) := by
      rintro _ ⟨⟩
      exact hl
    exact State.Inv.completed (s := { s with rk := some sch }) { hs with schedule_length := hrk } false
  | closed => exact hs.endSession.completed false
  | passed => exact hs.completed false
  | delivered w d _ _ _ _ hf => exact hs.delivered (hf.length_le_cap hs.params_valid) w
  | block d _ hf => exact { hs.delivered (hf.length_le_cap hs.params_valid) false with }
  | payload w d _ _ _ hf => exact hs.endSession.delivered (hf.length_le_cap hs.params_valid) w

/-! ## The invariant of a host action, a step and a run -/

/-- Settles O9: nothing is in a buffer, STATUS is 0 and the parameters are R6's defaults. -/
theorem invariantHoldsAtReset : Obligations.InvariantHoldsAtReset where
  ibuf_wf := rfl
  ibuf_below := rfl
  kbuf_wf := rfl
  kbuf_below := rfl
  obuf_wf := rfl
  obuf_keys := rfl
  olen_cap := Nat.zero_le _
  schedule_length := fun _ h => nomatch h
  status_legal := by decide
  error_empties := fun _ => rfl
  params_valid := by decide

/-- A reset event keeps the invariant, the parameters staying as they are (70_reset R360). -/
theorem State.Inv.hostReset (h : s.Inv) : (hostReset s).Inv :=
  { invariantHoldsAtReset with
    ibuf_below := rfl
    kbuf_below := rfl
    olen_cap := Nat.zero_le _
    params_valid := h.params_valid }

/-- A host write of a byte keeps the invariant: below the capacity it keeps the canonical form, from there up it is
ignored (20_memory R63, R64). -/
theorem State.Inv.hostSetBuf (h : s.Inv) (sp : HostSpace) (j : Nat) (v : Byte) : (hostSetBuf s sp j v).Inv := by
  cases sp with
  | ibuf =>
    by_cases hj : j < s.params.ibufCap
    · rw [hostSetBuf_ibuf_of_lt hj]
      exact { h with ibuf_wf := Memory.set_wf j v h.ibuf_wf, ibuf_below := Memory.set_below v hj h.ibuf_below }
    · rwa [hostSetBuf_ibuf_of_le (not_lt.1 hj)]
  | kbuf =>
    by_cases hj : j < s.params.kbufCap
    · rw [hostSetBuf_kbuf_of_lt hj]
      exact { h with kbuf_wf := Memory.set_wf j v h.kbuf_wf, kbuf_below := Memory.set_below v hj h.kbuf_below }
    · rwa [hostSetBuf_kbuf_of_le (not_lt.1 hj)]

/-- A host write of a length register keeps the invariant, which says nothing of ILEN and KLEN. -/
theorem State.Inv.hostSetReg (h : s.Inv) (n : Nat) (v : Word32) : (hostSetReg s n v).Inv := by
  unfold Machine.hostSetReg
  split
  · exact { h with }
  · exact { h with }
  · exact h

/-- Issuing a word keeps the invariant. -/
theorem State.Inv.issue (h : s.Inv) (ht : issue w s = .next t) : t.Inv := by
  obtain ⟨c, hc⟩ | ⟨i, hi⟩ := issue_cases w s
  · rw [hc, raise_eq_next] at ht
    exact ht ▸ h.raised c
  · obtain ⟨u, hu, he⟩ := exec_ends i s
    cases (hi.trans hu).symm.trans ht
    exact he.inv h

/-- Every host action keeps the invariant. -/
theorem State.Inv.hostAct (h : s.Inv) {a : HostAction} (ht : hostAct a s = .next t) : t.Inv := by
  cases a with
  | writeBuf sp j v => cases ht; exact h.hostSetBuf sp j v
  | readBuf => cases ht; exact { h with }
  | writeReg n v =>
    by_cases hn : n = 0
    · subst hn
      exact h.issue ht
    · cases (hostAct_writeReg_of_ne_zero hn v s).symm.trans ht
      exact h.hostSetReg n v
  | readReg => cases ht; exact { h with }
  | reset => cases ht; exact h.hostReset

/-- Settles O10: a step waits or performs a host action, and each keeps the invariant. -/
theorem stepKeepsTheInvariant : Obligations.StepKeepsTheInvariant := by
  intro s t h ht
  cases hs : s.inbox with
  | nil =>
    simp only [step, hs] at ht
    cases ht
    exact h
  | cons a rest =>
    rw [step_of_inbox hs] at ht
    exact State.Inv.hostAct (s := { s with inbox := rest }) { h with } ht

/-- Settles O11: by induction on the number of steps, each of which has a next state and keeps the invariant. -/
theorem everyRunIsSafe : Obligations.EveryRunIsSafe := by
  intro k
  induction k with
  | zero => exact fun s h => ⟨s, rfl, h⟩
  | succ k ih =>
    intro s h
    obtain ⟨t, ht⟩ := everyStepHasANextState s
    obtain ⟨u, hu, hinv⟩ := ih t (stepKeepsTheInvariant s t h ht)
    have hstep : core.step s = .next t := ht
    exact ⟨u, by simp only [Host.Core.run, hstep, hu], hinv⟩

end Sys2Proof.Machine
end

section
/-! A command's outcome depends on the payload, the key, the session, RES, the output before it and the parameters alone
(10_state R33, 70_reset_and_hazards, section 2). Two states that agree on these are `Alike`; two outcomes are `OutAlike`
when they are next states that agree on all that a command writes. Each shared check and each way to end takes alike
states to alike outcomes, so every command does. -/

namespace Sys2Proof.Machine

open Sys2Proof

variable {i : Instr} {s s' : State} {k k' : Out} {need need' : Nat} {d d' : List Byte}

/-- The two states agree on the payload, the key, the session, RES, the output and the parameters. -/
structure Alike (s s' : State) : Prop where
  ilen : s.ilen = s'.ilen
  input : s.input = s'.input
  klen : s.klen = s'.klen
  key : s.key = s'.key
  session : SameSession s s'
  res : s.res = s'.res
  olen : s.olen = s'.olen
  output : s.output = s'.output
  params : s.params = s'.params

/-- The two states agree on what a command writes, STATUS apart. -/
structure SameData (t t' : State) : Prop where
  res : t.res = t'.res
  session : SameSession t t'
  olen : t.olen = t'.olen
  output : t.output = t'.output

/-- Both outcomes are next states, with the same STATUS and the same data. -/
def OutAlike (o o' : Out) : Prop :=
  ∃ t t', o = .next t ∧ o' = .next t' ∧ t.status = t'.status ∧ SameData t t'

/-! ## What alike states share -/

namespace Alike

theorem n (h : Alike s s') : s.n = s'.n := congrArg BitVec.toNat h.ilen

theorem kn (h : Alike s s') : s.kn = s'.kn := congrArg BitVec.toNat h.klen

theorem H (h : Alike s s') : s.H = s'.H := congrArg (fun p : Params => hashOf p.hash) h.params

theorem aesState (h : Alike s s') : s.aesState = s'.aesState := h.session.1.symm

theorem rk (h : Alike s s') : s.rk = s'.rk := h.session.2.symm

theorem sessionWords (h : Alike s s') (size : KeySize) : s.sessionWords size = s'.sessionWords size := by
  rw [State.sessionWords, State.sessionWords, h.H, h.key]

theorem ilenOutOfRange (h : Alike s s') : s.ilenOutOfRange ↔ s'.ilenOutOfRange := by
  rw [State.ilenOutOfRange, State.ilenOutOfRange, h.n, h.params]

theorem klenOutOfRange (h : Alike s s') : s.klenOutOfRange ↔ s'.klenOutOfRange := by
  rw [State.klenOutOfRange, State.klenOutOfRange, h.kn, h.params]

theorem needTooLarge (h : Alike s s') (hn : need = need') : s.needTooLarge need ↔ s'.needTooLarge need' := by
  rw [State.needTooLarge, State.needTooLarge, h.params, hn]

theorem sameData (h : Alike s s') : SameData s s' := ⟨h.res, h.session, h.olen, h.output⟩

end Alike

/-! ## The ways to end -/

/-- The output payload of a delivery, whatever OBUF held before (10_state R31). -/
theorem output_deliver (d : List Byte) (s : State) :
    (deliver d s).output = d.take (BitVec.ofNat 32 d.length).toNat := by
  have hle : (BitVec.ofNat 32 d.length).toNat ≤ d.length := by
    rw [BitVec.toNat_ofNat]
    exact Nat.mod_le ..
  refine List.ext_getElem (by rw [output_length, deliver_olen, List.length_take, Nat.min_eq_left hle])
    fun j _ hj => ?_
  have hjd : j < d.length := by
    rw [List.length_take] at hj
    omega
  rw [List.getElem_take]
  simpa [State.output, memRead] using obufByte_deliver (s := s) (List.getElem?_eq_getElem hjd)

/-- A delivery leaves its own payload to read and nothing of the output before it. -/
theorem sameData_deliver (hr : s.res = s'.res) (hs : SameSession s s') (hd : d = d') :
    SameData (deliver d s) (deliver d' s') := by
  subst hd
  exact ⟨hr, hs, rfl, by rw [output_deliver, output_deliver]⟩

/-- `ok(w)` writes STATUS alone (00_scope R8). -/
theorem outAlike_okWarn (h : SameData s s') (w : Bool) : OutAlike (okWarn w s) (okWarn w s') :=
  ⟨_, _, rfl, rfl, rfl, h.res, h.session, h.olen, h.output⟩

/-- A success without a warning. -/
theorem outAlike_ok (hr : s.res = s'.res) (hs : SameSession s s') (hn : s.olen = s'.olen) (ho : s.output = s'.output) :
    OutAlike (ok s) (ok s') :=
  outAlike_okWarn ⟨hr, hs, hn, ho⟩ false

namespace Alike

/-- An error leaves no output to tell apart (60_exceptions R330). -/
theorem raise (h : Alike s s') (c : Cause) : OutAlike (raise c s) (raise c s') :=
  ⟨_, _, rfl, rfl, rfl, h.res, h.session, rfl, rfl⟩

/-- Closing the session keeps states alike (44_mode_sequencer R219). -/
theorem endSession (h : Alike s s') : Alike (endSession s) (endSession s') :=
  { h with session := ⟨rfl, rfl⟩ }

/-- A success that delivers. -/
theorem delivers (h : Alike s s') (hd : d = d') : OutAlike (ok (deliver d s)) (ok (deliver d' s')) :=
  outAlike_okWarn (sameData_deliver h.res h.session hd) false

/-- A success that delivers what a strip leaves, with the strip's warning (44_mode_sequencer R212). -/
theorem deliversStripped (h : Alike s s') {r r' : List Byte × Bool} (hr : r = r') :
    OutAlike (okWarn r.2 (deliver r.1 s)) (okWarn r'.2 (deliver r'.1 s')) :=
  hr ▸ outAlike_okWarn (sameData_deliver h.res h.session rfl) r.2

/-- A success that writes STATE. -/
theorem writesState (h : Alike s s') {S S' : Matrix} (hS : S = S') :
    OutAlike (ok { s with aesState := some S }) (ok { s' with aesState := some S' }) :=
  outAlike_ok h.res ⟨congrArg some hS.symm, h.session.2⟩ h.olen h.output

/-- A success that writes RES. -/
theorem writesRes (h : Alike s s') {v v' : Byte} (hv : v = v') :
    OutAlike (ok { s with res := v }) (ok { s' with res := v' }) :=
  outAlike_ok hv h.session h.olen h.output

/-! ## The checks -/

/-- A check of the same condition (60_exceptions R326). -/
theorem check (h : Alike s s') {bad bad' : Prop} [Decidable bad] [Decidable bad'] {c : Cause} (hb : bad ↔ bad')
    (hk : OutAlike k k') : OutAlike (check bad c s k) (check bad' c s' k') := by
  by_cases hbad : bad
  · rw [check_fail hbad, check_fail (hb.1 hbad)]
    exact h.raise c
  · rwa [check_pass hbad, check_pass (mt hb.2 hbad)]

theorem precheck (h : Alike s s') (hn : need = need') (hk : OutAlike k k') :
    OutAlike (precheck need s k) (precheck need' s' k') :=
  h.check h.ilenOutOfRange (h.check (h.needTooLarge hn) hk)

theorem keystreamChecks (h : Alike s s') (hn : need = need') (hk : OutAlike k k') :
    OutAlike (keystreamChecks need s k) (keystreamChecks need' s' k') :=
  h.check (or_congr h.ilenOutOfRange h.klenOutOfRange) (h.check (h.needTooLarge hn) (h.check (by rw [h.kn]) hk))

/-- The key size that a KS field stands for, and the check of the passphrase (44_mode_sequencer R226 to R230). -/
theorem payloadChecks (h : Alike s s') (hn : need = need') {ks : BitVec 2} {f f' : KeySize → Out}
    (hf : ∀ size, OutAlike (f size) (f' size)) :
    OutAlike (payloadChecks need ks s f) (payloadChecks need' ks s' f') := by
  refine h.check (or_congr h.ilenOutOfRange h.klenOutOfRange) (h.check (h.needTooLarge hn) ?_)
  cases keySizeOf ks with
  | none => exact h.raise _
  | some size => exact h.check (by rw [h.kn]) (hf size)

/-! ## The commands -/

/-- A command that reads STATE, without it (10_state R22). -/
theorem of_no_state (h : Alike s s') (hi : ReadsState i) (hS : s'.aesState = none) :
    OutAlike (exec i s) (exec i s') := by
  rw [exec_of_no_state hi hS, exec_of_no_state hi (h.aesState.trans hS)]
  exact h.raise _

theorem transform (h : Alike s s') (f : Matrix → Matrix) : OutAlike (transform f s) (transform f s') := by
  cases hS : s'.aesState with
  | none =>
    rw [transform_of_no_state f (h.aesState.trans hS), transform_of_no_state f hS]
    exact h.raise _
  | some S =>
    rw [Machine.transform, Machine.transform, h.aesState, hS]
    exact h.writesState rfl

theorem blockCommand (h : Alike s s') (f : List Byte → List KeyWord → Nat → List Byte) :
    OutAlike (blockCommand f s) (blockCommand f s') := by
  rw [Machine.blockCommand, Machine.blockCommand, h.rk, h.input]
  refine h.check h.ilenOutOfRange ?_
  cases s'.rk with
  | none => exact h.raise _
  | some sch =>
    have hd := sameData_deliver h.res h.session (Eq.refl (f s'.input sch.words sch.size.rounds))
    exact h.check (by rw [h.n]) (outAlike_ok hd.res ⟨rfl, hd.session.2⟩ hd.olen hd.output)

theorem caesarCommand (h : Alike s s') (x : Byte) (z : Int) : OutAlike (caesarCommand x z s) (caesarCommand x z s') :=
  h.check h.ilenOutOfRange <| h.check (h.needTooLarge h.n) <| h.check Iff.rfl <| h.delivers (by rw [h.input])

theorem vigenereCommand (h : Alike s s') (f : List Byte → List Byte → List Byte) :
    OutAlike (vigenereCommand f s) (vigenereCommand f s') :=
  h.check (or_congr h.ilenOutOfRange h.klenOutOfRange) <| h.check (h.needTooLarge h.n) <|
    h.check (by rw [h.key]) <| h.delivers (by rw [h.input, h.key])

end Alike

/-- Alike states have alike outcomes under every command. -/
theorem Alike.exec (h : Alike s s') (i : Instr) : OutAlike (exec i s) (exec i s') := by
  cases i with
  | gfmul a b => exact h.writesRes rfl
  | ldst => exact h.check h.ilenOutOfRange <| h.check (by rw [h.n]) <| h.writesState (by rw [h.input])
  | stst =>
    cases hS : s'.aesState with
    | none => exact h.of_no_state (.inl rfl) hS
    | some S =>
      rw [exec_stst_of_state hS, exec_stst_of_state (h.aesState.trans hS)]
      exact h.delivers rfl
  | subb | isubb | shrow | ishrow | mixc | imixc => exact h.transform _
  | ark rd =>
    cases hS : s'.aesState with
    | none => exact h.of_no_state (by simp [ReadsState]) hS
    | some S =>
      cases hr : s'.rk with
      | none =>
        have hst {u : State} (hu : u.aesState = some S) : u.stv = true := by simp [State.stv, hu]
        rw [exec_of_no_schedule hr (.inr (.inr ⟨⟨rd, rfl⟩, hst hS⟩)),
          exec_of_no_schedule (h.rk.trans hr) (.inr (.inr ⟨⟨rd, rfl⟩, hst (h.aesState.trans hS)⟩))]
        exact h.raise _
      | some sch =>
        rw [exec_ark_of_state_schedule rd hS hr,
          exec_ark_of_state_schedule rd (h.aesState.trans hS) (h.rk.trans hr)]
        exact h.check Iff.rfl <| h.writesState rfl
  | kexp ks =>
    refine h.check h.klenOutOfRange ?_
    cases keySizeOf ks with
    | none => exact h.raise _
    | some size =>
      exact h.check (by rw [h.kn]) <| outAlike_ok h.res ⟨h.session.1, by rw [h.key]⟩ h.olen h.output
  | kclr => exact outAlike_ok h.res ⟨rfl, rfl⟩ h.olen h.output
  | rdrk rd =>
    cases hr : s'.rk with
    | none =>
      rw [exec_of_no_schedule hr (.inr (.inl ⟨rd, rfl⟩)),
        exec_of_no_schedule (h.rk.trans hr) (.inr (.inl ⟨rd, rfl⟩))]
      exact h.raise _
    | some sch =>
      rw [exec_rdrk_of_schedule rd hr, exec_rdrk_of_schedule rd (h.rk.trans hr)]
      exact h.check Iff.rfl <| h.delivers rfl
  | encb | decb => exact h.blockCommand _
  | pad => exact h.precheck (by rw [h.n]) <| h.delivers (by rw [h.input])
  | unpadu => exact h.precheck h.n <| h.check (by rw [h.n]) <| h.delivers (by rw [h.input, h.params])
  | unpadv => exact h.precheck h.n <| h.deliversStripped (by rw [h.input])
  | hexe => exact h.precheck (by rw [h.n]) <| h.delivers (by rw [h.input])
  | hexd =>
    refine h.precheck (by rw [h.n]) ?_
    rw [h.input]
    cases hexDec s'.input with
    | none => exact h.raise _
    | some d => exact h.delivers rfl
  | u8chk => exact h.check h.ilenOutOfRange <| h.check (by rw [h.input]) <| outAlike_okWarn h.sameData false
  | kdf ks =>
    refine h.check h.klenOutOfRange ?_
    cases keySizeOf ks with
    | none => exact h.raise _
    | some size => exact h.check (by rw [h.kn]) <| h.delivers (by rw [h.H, h.key])
  | aeste ks =>
    exact h.payloadChecks (by rw [h.n]) fun size => h.endSession.delivers (by rw [h.input, h.sessionWords])
  | aestd ks =>
    refine h.payloadChecks (by rw [h.n]) fun size => ?_
    rw [h.input]
    cases hexDec s'.input with
    | none => exact h.raise _
    | some c =>
      refine h.check Iff.rfl <| h.check Iff.rfl ?_
      rw [h.params, h.sessionWords]
      exact h.endSession.check Iff.rfl <| h.endSession.delivers rfl
  | aesfe ks =>
    exact h.payloadChecks (by rw [h.n, h.params]) fun size =>
      h.endSession.delivers (by rw [h.input, h.params, h.sessionWords])
  | aesfd ks =>
    exact h.payloadChecks h.n fun size => h.check (by rw [h.n]) <|
      h.endSession.deliversStripped (by rw [h.input, h.sessionWords])
  | caese x | caesd x => exact h.caesarCommand x _
  | vkcln => exact h.check h.klenOutOfRange <| h.check (by rw [h.key]) <| h.delivers (by rw [h.key])
  | vigte => exact h.vigenereCommand fun d ck => vigText d ck 1
  | vigtd => exact h.vigenereCommand fun d ck => vigText d ck (-1)
  | vigbe => exact h.vigenereCommand fun d ck => vigBin d ck 1
  | vigbd => exact h.vigenereCommand fun d ck => vigBin d ck (-1)
  | ksgen => exact h.keystreamChecks h.n <| h.delivers (by rw [h.H, h.params, h.key, h.n])
  | kste => exact h.keystreamChecks (by rw [h.n]) <| h.delivers (by rw [h.H, h.params, h.key, h.input])
  | kstd =>
    refine h.keystreamChecks (by rw [h.n]) ?_
    rw [h.input, h.H, h.params, h.key]
    cases hexDec s'.input with
    | none => exact h.raise _
    | some c => exact h.check Iff.rfl <| h.delivers rfl
  | ksb => exact h.keystreamChecks h.n <| h.delivers (by rw [h.H, h.params, h.key, h.input])
  | sniff => exact h.check h.ilenOutOfRange <| h.writesRes (by rw [h.input])

/-- Settles O16: the hypotheses say that the two states are alike. -/
theorem staleBytesNeverMatter : Obligations.StaleBytesNeverMatter := by
  intro i s s' hilen hinput hklen hkey hsession hres holen houtput hparams
  obtain ⟨t, t', ht, ht', hstatus, hd⟩ :=
    Alike.exec ⟨hilen, hinput, hklen, hkey, hsession, hres, holen, houtput, hparams⟩ i
  exact ⟨t, t', ht, ht', hstatus, hd.res, hd.session, hd.olen, hd.output⟩

end Sys2Proof.Machine
end

section
/-! The laws of `gmul` (40_gf_multiplier R132), assembled from its linearity and its uniqueness of inverses. -/

namespace Sys2Proof.Machine

open Sys2Proof

/-- The top bit of a byte is its number's (00_scope R7). -/
theorem msb_eq_false_iff_lt (a : Byte) : a.msb = false ↔ a.toNat < 0x80 := by
  simp [BitVec.msb_eq_decide]

/-- The product by 2 is a doubling (40_gf_multiplier R132). -/
theorem gmul_two_left (a : Byte) : gmul 2#8 a = double a := by
  rw [gmul_comm]
  exact gmul_twoPow_right a (k := 1) (by decide)

/-- Doubling, by the size of the byte (40_gf_multiplier R132). -/
theorem double_eq_ite (a : Byte) : double a = if a.toNat < 0x80 then a <<< 1 else (a <<< 1) ^^^ 0x1B#8 := by
  by_cases h : a.toNat < 0x80
  · rw [double_eq, (msb_eq_false_iff_lt a).2 h, if_pos h]
    simp
  · rw [double_eq, Bool.eq_true_of_not_eq_false (mt (msb_eq_false_iff_lt a).1 h), if_neg h]
    rfl

/-- The product by 3 is the product by 2 and 1 (40_gf_multiplier R132). -/
theorem gmul_three_left (a : Byte) : gmul 3#8 a = gmul 2#8 a ^^^ a :=
  (gmul_linear_left a 2#8 1#8).trans (congrArg (gmul 2#8 a ^^^ ·) (gmul_one_left a))

/-- Every byte but 0 has an inverse, which `ginv` gives (40_gf_multiplier R132). -/
theorem gmul_ginv {a : Byte} (ha : a ≠ 0#8) : gmul a (ginv a) = 1#8 := by
  rw [ginv_eq_affineUnmap_sbox]
  exact gmul_affineUnmap_sbox a ha

/-- Settles O24: commutativity, associativity and linearity hold by the powers of `x`; the inverse is `ginv`'s. -/
theorem gmulIsAFieldProduct : Obligations.GmulIsAFieldProduct :=
  ⟨gmul_comm, fun a => ⟨gmul_one_right a, gmul_zero_right a⟩, gmul_linear_right, gmul_assoc,
    fun a => (gmul_two_left a).trans (double_eq_ite a), gmul_three_left,
    fun a ha => ⟨ginv a, gmul_ginv ha, fun _ hc => eq_of_gmul_eq_one (gmul_ginv ha) hc⟩,
    fun _ => gmul_ginv, ginv_zero⟩

end Sys2Proof.Machine
end

section
/-! The transforms of the state matrix undo each other (41_aes_core_transform R154). Substitution and rotation are
undone element by element; the product of two mixing matrices is the mixing matrix whose first row is the cyclic
convolution of their first rows. -/

namespace Sys2Proof.Machine

open Sys2Proof

variable {s t : State} {S : Matrix} {i j : Instr} {f g : Matrix → Matrix}

/-! ## The matrices -/

theorem Quad.ext_get {α : Type} {p q : Quad α} (h : ∀ i, p.get i = q.get i) : p = q := by
  obtain ⟨p0, p1, p2, p3⟩ := p
  obtain ⟨q0, q1, q2, q3⟩ := q
  obtain rfl : p0 = q0 := h 0
  obtain rfl : p1 = q1 := h 1
  obtain rfl : p2 = q2 := h 2
  obtain rfl : p3 = q3 := h 3
  rfl

/-- A matrix is its sixteen elements. -/
theorem Matrix.ext_at {S T : Matrix} (h : ∀ r c, S.at r c = T.at r c) : S = T :=
  Quad.ext_get fun r => Quad.ext_get fun c => h r c

theorem invSubBytes_subBytes (S : Matrix) : invSubBytes (subBytes S) = S :=
  Matrix.ext_at fun r c => by simp [invSbox_sbox]

theorem subBytes_invSubBytes (S : Matrix) : subBytes (invSubBytes S) = S :=
  Matrix.ext_at fun r c => by simp [sbox_invSbox]

theorem invShiftRows_shiftRows (S : Matrix) : invShiftRows (shiftRows S) = S :=
  Matrix.ext_at fun r c => by simp

theorem shiftRows_invShiftRows (S : Matrix) : shiftRows (invShiftRows S) = S :=
  Matrix.ext_at fun r c => by simp

theorem subBytes_shiftRows (S : Matrix) : subBytes (shiftRows S) = shiftRows (subBytes S) :=
  Matrix.ext_at fun r c => by simp

theorem invSubBytes_invShiftRows (S : Matrix) : invSubBytes (invShiftRows S) = invShiftRows (invSubBytes S) :=
  Matrix.ext_at fun r c => by simp

theorem addRoundKey_addRoundKey (S K : Matrix) : addRoundKey (addRoundKey S K) K = S :=
  Matrix.ext_at fun r c => by simp

/-- The cyclic convolution of two first rows: element m is the XOR over i of gmul(k[i], k'[(m - i) mod 4]). -/
def rowProduct (k k' : Quad Byte) : Quad Byte :=
  Quad.ofFn fun m => gmul (k.get 0) (k'.get m) ^^^ gmul (k.get 1) (k'.get (m - 1)) ^^^
    gmul (k.get 2) (k'.get (m - 2)) ^^^ gmul (k.get 3) (k'.get (m - 3))

/-- Two mixing matrices multiply to a mixing matrix. -/
theorem mixWith_mixWith (k k' : Quad Byte) (S : Matrix) : mixWith k (mixWith k' S) = mixWith (rowProduct k k') S := by
  refine Matrix.ext_at fun r c => ?_
  have hl (a b x : Byte) : gmul (a ^^^ b) x = gmul a x ^^^ gmul b x := gmul_linear_left x a b
  have hr (a x y : Byte) : gmul a (x ^^^ y) = gmul a x ^^^ gmul a y := gmul_linear_right a x y
  simp only [at_mixWith, hr, ← gmul_assoc, mixMatrix, rowProduct, get_ofFn, hl]
  match r with
  | 0 | 1 | 2 | 3 =>
    simp only [Fin.isValue, Fin.reduceSub, Quad.get]
    ac_rfl

/-- The unit of the product of first rows leaves every column as it is. -/
theorem mixWith_unit (S : Matrix) : mixWith ⟨1#8, 0#8, 0#8, 0#8⟩ S = S := by
  refine Matrix.ext_at fun r c => ?_
  rw [at_mixWith]
  match r with
  | 0 | 1 | 2 | 3 => simp [mixMatrix, Quad.get, gmul_one_left, gmul_zero_left, -zero_sub]

theorem rowProduct_invc_fwd : rowProduct invc fwd = ⟨1#8, 0#8, 0#8, 0#8⟩ := by decide

theorem rowProduct_fwd_invc : rowProduct fwd invc = ⟨1#8, 0#8, 0#8, 0#8⟩ := by decide

theorem invMixColumns_mixColumns (S : Matrix) : invMixColumns (mixColumns S) = S := by
  rw [invMixColumns, mixColumns, mixWith_mixWith, rowProduct_invc_fwd, mixWith_unit]

theorem mixColumns_invMixColumns (S : Matrix) : mixColumns (invMixColumns S) = S := by
  rw [invMixColumns, mixColumns, mixWith_mixWith, rowProduct_fwd_invc, mixWith_unit]

/-! ## The commands -/

/-- The state after a command that leaves S in STATE and ends well, all else being as in s. -/
def State.working (s : State) (S : Matrix) : State := State.completed { s with aesState := some S } false

@[simp] theorem working_aesState (s : State) (S : Matrix) : (s.working S).aesState = some S := rfl

@[simp] theorem working_rk (s : State) (S : Matrix) : (s.working S).rk = s.rk := rfl

@[simp] theorem working_working (s : State) (S T : Matrix) : (s.working S).working T = s.working T := rfl

/-- The first command of a list, then the rest (30_encoding section 5). -/
theorem runCommands_cons (h : exec i s = .next t) (l : List Instr) : runCommands (i :: l) s = runCommands l t := by
  simp only [runCommands, h]

/-- A command that is a transform, on a state with a value in STATE (41_aes_core_transform R140). -/
theorem runCommands_transform (hi : exec i = transform f) (h : s.aesState = some S) (l : List Instr) :
    runCommands (i :: l) s = runCommands l (s.working (f S)) :=
  runCommands_cons ((congrFun hi s).trans (transform_of_state f h)) l

/-- Two transforms one after the other. -/
theorem runCommands_transform_pair (hi : exec i = transform f) (hj : exec j = transform g)
    (h : s.aesState = some S) : runCommands [i, j] s = .next (s.working (g (f S))) := by
  rw [runCommands_transform hi h, runCommands_transform hj (working_aesState ..), runCommands, working_working]

/-- ARK with a round key of the schedule (41_aes_core_transform R153). -/
theorem runCommands_ark {sch : Schedule} {rd : BitVec 4} (hr : s.rk = some sch) (hrd : rd.toNat ≤ sch.size.rounds)
    (h : s.aesState = some S) (l : List Instr) :
    runCommands (.ark rd :: l) s = runCommands l (s.working (addRoundKey S (roundKey sch.words rd.toNat))) := by
  refine runCommands_cons ?_ l
  rw [exec_ark_of_state_schedule rd h hr, check_pass (not_lt.2 hrd)]
  rfl

/-- Settles O31: each pair of matrix functions has its law, and a command is its matrix function. -/
theorem transformPairsUndoEachOther : Obligations.TransformPairsUndoEachOther := by
  refine ⟨fun s S i j hS hij => ?_, fun s S sch rd hS hr hrd => ?_, fun s hs => ?_, fun s hs => ?_⟩
  · have pair {f g : Matrix → Matrix} (hi : exec i = transform f) (hj : exec j = transform g)
        (hfg : ∀ T, g (f T) = T) : ∃ t, runCommands [i, j] s = .next t ∧ t.aesState = some S :=
      ⟨_, runCommands_transform_pair hi hj hS, congrArg some (hfg S)⟩
    simp only [List.mem_cons, List.not_mem_nil, or_false, Prod.mk.injEq] at hij
    obtain ⟨rfl, rfl⟩ | ⟨rfl, rfl⟩ | ⟨rfl, rfl⟩ | ⟨rfl, rfl⟩ | ⟨rfl, rfl⟩ | ⟨rfl, rfl⟩ := hij
    · exact pair rfl rfl invSubBytes_subBytes
    · exact pair rfl rfl subBytes_invSubBytes
    · exact pair rfl rfl invShiftRows_shiftRows
    · exact pair rfl rfl shiftRows_invShiftRows
    · exact pair rfl rfl invMixColumns_mixColumns
    · exact pair rfl rfl mixColumns_invMixColumns
  · refine ⟨s.working S, ?_, rfl⟩
    rw [runCommands_ark hr hrd hS, runCommands_ark (by exact hr) hrd (working_aesState ..), runCommands,
      working_working, addRoundKey_addRoundKey]
  · obtain ⟨S, hS⟩ := Option.isSome_iff_exists.1 hs
    refine ⟨_, runCommands_transform_pair rfl rfl hS, ?_⟩
    rw [runCommands_transform_pair (f := shiftRows) (g := subBytes) rfl rfl hS, subBytes_shiftRows]
  · obtain ⟨S, hS⟩ := Option.isSome_iff_exists.1 hs
    refine ⟨_, runCommands_transform_pair rfl rfl hS, ?_⟩
    rw [runCommands_transform_pair (f := invShiftRows) (g := invSubBytes) rfl rfl hS, invSubBytes_invShiftRows]

end Sys2Proof.Machine
end

section
/-! The block functions (43_aes_block_engine R190 to R194). A round of one undoes a round of the other with the
substitution and the rotation between them, so the two round loops cancel from the inside out; and each function is run
by the command sequence that spells its command by hand. -/

namespace Sys2Proof.Machine

open Sys2Proof

variable {s t : State} {sch : Schedule} {S : Matrix} {l : List Instr}

/-! ## The block functions undo each other -/

theorem toState_fromState (S : Matrix) : toState (fromState S) = S :=
  Matrix.ext_at fun r c => by rw [at_toState, List.getD_eq_getElem?_getD, fromState_getElem?, Option.getD_some]

theorem fromState_toState {b : List Byte} (hb : b.length = 16) : fromState (toState b) = b := by
  refine List.ext_getElem? fun j => ?_
  by_cases hj : j < 16
  · have hrc : j % 4 + 4 * (j / 4) = j := by omega
    have hget := fromState_getElem? (toState b) ⟨j % 4, by omega⟩ ⟨j / 4, by omega⟩
    simp only [at_toState, hrc] at hget
    rw [hget, List.getElem?_eq_getElem (by omega), List.getD_eq_getElem _ _ (by omega)]
  · rw [List.getElem?_eq_none (by rw [length_fromState]; omega), List.getElem?_eq_none (by omega)]

/-- The part of a round that needs no key, forwards (43_aes_block_engine R190). -/
def subShift (S : Matrix) : Matrix := shiftRows (subBytes S)

/-- The same part backwards (43_aes_block_engine R191). -/
def unsubShift (S : Matrix) : Matrix := invSubBytes (invShiftRows S)

theorem unsubShift_subShift (S : Matrix) : unsubShift (subShift S) = S := by
  rw [unsubShift, subShift, invShiftRows_shiftRows, invSubBytes_subBytes]

theorem subShift_unsubShift (S : Matrix) : subShift (unsubShift S) = S := by
  rw [unsubShift, subShift, subBytes_invSubBytes, shiftRows_invShiftRows]

/-- A round backwards undoes a round forwards, between the two halves of the next one. -/
theorem decRound_subShift_encRound (W : List KeyWord) (S : Matrix) (rd : Nat) :
    decRound W (subShift (encRound W S rd)) rd = subShift S := by
  have h : decRound W (subShift (encRound W S rd)) rd =
      invMixColumns (addRoundKey (unsubShift (subShift (encRound W S rd))) (roundKey W rd)) := rfl
  rw [h, unsubShift_subShift, encRound, addRoundKey_addRoundKey, invMixColumns_mixColumns, subShift]

/-- A round forwards undoes a round backwards, between the two halves of the next one. -/
theorem encRound_unsubShift_decRound (W : List KeyWord) (S : Matrix) (rd : Nat) :
    encRound W (unsubShift (decRound W S rd)) rd = unsubShift S := by
  have h : encRound W (unsubShift (decRound W S rd)) rd =
      addRoundKey (mixColumns (subShift (unsubShift (decRound W S rd)))) (roundKey W rd) := rfl
  rw [h, subShift_unsubShift, decRound, mixColumns_invMixColumns, addRoundKey_addRoundKey, unsubShift]

/-- When each round undoes the same round of another loop, with `e` between them, the loops cancel from the inside. -/
theorem foldl_reverse_foldl {f g : Matrix → Nat → Matrix} {e : Matrix → Matrix}
    (h : ∀ S rd, g (e (f S rd)) rd = e S) (l : List Nat) (S : Matrix) :
    l.reverse.foldl g (e (l.foldl f S)) = e S := by
  induction l generalizing S with
  | nil => rfl
  | cons rd l ih => rw [List.foldl_cons, List.reverse_cons, List.foldl_append, ih, List.foldl_cons, List.foldl_nil, h]

theorem encryptMatrix_eq (S : Matrix) (W : List KeyWord) (N : Nat) :
    encryptMatrix S W N =
      addRoundKey (subShift ((List.range' 1 (N - 1)).foldl (encRound W) (addRoundKey S (roundKey W 0))))
        (roundKey W N) :=
  rfl

theorem decryptMatrix_eq (S : Matrix) (W : List KeyWord) (N : Nat) :
    decryptMatrix S W N =
      addRoundKey (unsubShift ((List.range' 1 (N - 1)).reverse.foldl (decRound W) (addRoundKey S (roundKey W N))))
        (roundKey W 0) :=
  rfl

theorem decryptMatrix_encryptMatrix (S : Matrix) (W : List KeyWord) (N : Nat) :
    decryptMatrix (encryptMatrix S W N) W N = S := by
  rw [decryptMatrix_eq, encryptMatrix_eq, addRoundKey_addRoundKey, foldl_reverse_foldl (decRound_subShift_encRound W),
    unsubShift_subShift, addRoundKey_addRoundKey]

theorem encryptMatrix_decryptMatrix (S : Matrix) (W : List KeyWord) (N : Nat) :
    encryptMatrix (decryptMatrix S W N) W N = S := by
  have hloop := foldl_reverse_foldl (encRound_unsubShift_decRound W) (List.range' 1 (N - 1)).reverse
  rw [List.reverse_reverse] at hloop
  rw [encryptMatrix_eq, decryptMatrix_eq, addRoundKey_addRoundKey, hloop, subShift_unsubShift,
    addRoundKey_addRoundKey]

theorem decryptBlock_encryptBlock {b : List Byte} (hb : b.length = 16) (W : List KeyWord) (N : Nat) :
    decryptBlock (encryptBlock b W N) W N = b := by
  rw [decryptBlock, encryptBlock, toState_fromState, decryptMatrix_encryptMatrix, fromState_toState hb]

theorem encryptBlock_decryptBlock {b : List Byte} (hb : b.length = 16) (W : List KeyWord) (N : Nat) :
    encryptBlock (decryptBlock b W N) W N = b := by
  rw [decryptBlock, encryptBlock, toState_fromState, encryptMatrix_decryptMatrix, fromState_toState hb]

/-- Settles O37: the two matrix functions undo each other, for every list of words and every number of rounds. -/
theorem blockFunctionsUndoEachOther : Obligations.BlockFunctionsUndoEachOther := fun size W _ hb =>
  ⟨decryptBlock_encryptBlock hb W size.rounds, encryptBlock_decryptBlock hb W size.rounds⟩

/-! ## The block commands by hand -/

/-- The commands of two lists one after the other (30_encoding section 5). -/
theorem runCommands_append (h : runCommands l s = .next t) (l' : List Instr) :
    runCommands (l ++ l') s = runCommands l' t := by
  induction l generalizing s with
  | nil =>
    cases h
    rfl
  | cons i l ih =>
    obtain ⟨u, hu, -⟩ := exec_ends i s
    rw [runCommands_cons hu] at h
    rw [List.cons_append, runCommands_cons hu, ih h]

/-- The number of a round fits field RIDX (30_encoding R97). -/
theorem toNat_ofNat_round {rd : Nat} {size : KeySize} (h : rd ≤ size.rounds) : (BitVec.ofNat 4 rd).toNat = rd := by
  have := size.rounds_le
  rw [BitVec.toNat_ofNat, Nat.mod_eq_of_lt (by omega)]

section

variable (hr : s.rk = some sch)

include hr

/-- ARK with a round number, on a state whose STATE holds S. -/
theorem runCommands_ark_working {rd : Nat} (hrd : rd ≤ sch.size.rounds) (S : Matrix) (l : List Instr) :
    runCommands (.ark (BitVec.ofNat 4 rd) :: l) (s.working S) =
      runCommands l (s.working (addRoundKey S (roundKey sch.words rd))) := by
  have hn := toNat_ofNat_round hrd
  rw [runCommands_ark (by exact hr) (by rwa [hn]) (working_aesState ..), hn, working_working]

/-- AESROUND is the round of `encryptBlock` (30_encoding R104). -/
theorem runCommands_aesround {rd : Nat} (hrd : rd ≤ sch.size.rounds) (S : Matrix) :
    runCommands (aesround (BitVec.ofNat 4 rd)) (s.working S) = .next (s.working (encRound sch.words S rd)) := by
  rw [aesround, runCommands_transform (f := subBytes) rfl (working_aesState ..),
    runCommands_transform (f := shiftRows) rfl (working_aesState ..),
    runCommands_transform (f := mixColumns) rfl (working_aesState ..)]
  exact runCommands_ark_working hr hrd _ []

/-- AESFINAL is the last round of `encryptBlock` (30_encoding R104). -/
theorem runCommands_aesfinal {rd : Nat} (hrd : rd ≤ sch.size.rounds) (S : Matrix) :
    runCommands (aesfinal (BitVec.ofNat 4 rd)) (s.working S) =
      .next (s.working (addRoundKey (subShift S) (roundKey sch.words rd))) := by
  rw [aesfinal, runCommands_transform (f := subBytes) rfl (working_aesState ..),
    runCommands_transform (f := shiftRows) rfl (working_aesState ..)]
  exact runCommands_ark_working hr hrd _ []

/-- IAESROUND is the round of `decryptBlock` (30_encoding R104). -/
theorem runCommands_iaesround {rd : Nat} (hrd : rd ≤ sch.size.rounds) (S : Matrix) :
    runCommands (iaesround (BitVec.ofNat 4 rd)) (s.working S) = .next (s.working (decRound sch.words S rd)) := by
  rw [iaesround, runCommands_transform (f := invShiftRows) rfl (working_aesState ..),
    runCommands_transform (f := invSubBytes) rfl (working_aesState ..)]
  exact (runCommands_ark_working hr hrd _ _).trans
    (runCommands_transform (f := invMixColumns) rfl (working_aesState ..) [])

/-- IAESFINAL is the last round of `decryptBlock` (30_encoding R104). -/
theorem runCommands_iaesfinal (S : Matrix) :
    runCommands iaesfinal (s.working S) = .next (s.working (addRoundKey (unsubShift S) (roundKey sch.words 0))) := by
  rw [iaesfinal, runCommands_transform (f := invShiftRows) rfl (working_aesState ..),
    runCommands_transform (f := invSubBytes) rfl (working_aesState ..)]
  exact runCommands_ark_working hr (Nat.zero_le _) _ []

end

/-- A list of rounds, each spelt by its commands, runs the loop of the rounds. -/
theorem runCommands_rounds {f : Matrix → Nat → Matrix} {p : Nat → List Instr} {rds : List Nat}
    (h : ∀ rd ∈ rds, ∀ S, runCommands (p rd) (s.working S) = .next (s.working (f S rd))) (S : Matrix) :
    runCommands (rds.flatMap p) (s.working S) = .next (s.working (rds.foldl f S)) := by
  induction rds generalizing S with
  | nil => rfl
  | cons rd rds ih =>
    obtain ⟨hrd, hrds⟩ := List.forall_mem_cons.1 h
    rw [List.flatMap_cons, runCommands_append (hrd S), ih hrds, List.foldl_cons]

/-- LDST of a loaded block (41_aes_core_transform R143). -/
theorem runCommands_ldst (hn : s.n = 16) (hc : s.n ≤ s.params.ibufCap) (l : List Instr) :
    runCommands (.ldst :: l) s = runCommands l (s.working (toState s.input)) := by
  refine runCommands_cons ?_ l
  rw [exec, execLdst, check_pass (not_lt.2 hc), check_pass (by simp [hn])]
  rfl

/-- A block command with a schedule and a block (43_aes_block_engine R192, R193). -/
theorem blockCommand_of_block (f : List Byte → List KeyWord → Nat → List Byte) (hr : s.rk = some sch) (hn : s.n = 16)
    (hc : s.n ≤ s.params.ibufCap) :
    blockCommand f s = .next ((dropState (deliver (f s.input sch.words sch.size.rounds) s)).completed false) := by
  simp only [blockCommand, hr]
  rw [check_pass (not_lt.2 hc), check_pass (by simp [hn])]
  rfl

/-- The rounds of the loops are round numbers of the schedule. -/
theorem le_rounds_of_mem {rd : Nat} {size : KeySize} (h : rd ∈ List.range' 1 (size.rounds - 1)) : rd ≤ size.rounds := by
  rw [List.mem_range'_1] at h
  omega

/-- The sequence that spells ENCB, up to the store (43_aes_block_engine R192). -/
theorem runCommands_encryptByHand (hr : s.rk = some sch) (hn : s.n = 16) (hc : s.n ≤ s.params.ibufCap) :
    runCommands (encryptByHand sch.size.rounds) s =
      runCommands [.stst] (s.working (encryptMatrix (toState s.input) sch.words sch.size.rounds)) := by
  have hloop := runCommands_rounds (rds := List.range' 1 (sch.size.rounds - 1)) fun rd hrd =>
    runCommands_aesround hr (le_rounds_of_mem hrd)
  have hfirst (S : Matrix) (l : List Instr) : runCommands (.ark 0 :: l) (s.working S) =
      runCommands l (s.working (addRoundKey S (roundKey sch.words 0))) :=
    runCommands_ark_working hr (Nat.zero_le _) S l
  rw [encryptByHand, List.append_assoc, List.append_assoc, List.cons_append, runCommands_ldst hn hc, List.cons_append,
    List.nil_append, hfirst, runCommands_append (hloop _), runCommands_append (runCommands_aesfinal hr le_rfl _),
    encryptMatrix_eq]

/-- The sequence that spells DECB, up to the store (43_aes_block_engine R193). -/
theorem runCommands_decryptByHand (hr : s.rk = some sch) (hn : s.n = 16) (hc : s.n ≤ s.params.ibufCap) :
    runCommands (decryptByHand sch.size.rounds) s =
      runCommands [.stst] (s.working (decryptMatrix (toState s.input) sch.words sch.size.rounds)) := by
  have hloop := runCommands_rounds (rds := (List.range' 1 (sch.size.rounds - 1)).reverse) fun rd hrd =>
    runCommands_iaesround hr (le_rounds_of_mem (List.mem_reverse.1 hrd))
  rw [decryptByHand, List.append_assoc, List.append_assoc, List.cons_append, runCommands_ldst hn hc, List.cons_append,
    List.nil_append, runCommands_ark_working hr le_rfl, runCommands_append (hloop _),
    runCommands_append (runCommands_iaesfinal hr _), decryptMatrix_eq]

/-- STST after a sequence by hand leaves what the block command leaves, but for STATE. -/
theorem stst_agrees_with_blockCommand {f : List Byte → List KeyWord → Nat → List Byte} {i : Instr}
    (hi : exec i = blockCommand f) (hr : s.rk = some sch) (hn : s.n = 16) (hc : s.n ≤ s.params.ibufCap)
    (hl : runCommands l s = runCommands [.stst] (s.working S))
    (hf : f s.input sch.words sch.size.rounds = fromState S) :
    ∃ t u : State, runCommands l s = .next t ∧ exec i s = .next u ∧ t.stv = true ∧ u.stv = false ∧
      ({ t with aesState := none } : State) = u := by
  have hstst : exec .stst (s.working S) = .next ((deliver (fromState S) (s.working S)).completed false) :=
    exec_stst_of_state (working_aesState ..)
  refine ⟨_, _, hl.trans (runCommands_cons hstst []), (congrFun hi s).trans (blockCommand_of_block f hr hn hc), rfl,
    rfl, ?_⟩
  rw [hf]
  rfl

/-- Settles O36: each sequence by hand computes the command's matrix function in STATE and stores it. -/
theorem blockCommandsEqualTheirRoundSequences : Obligations.BlockCommandsEqualTheirRoundSequences :=
  fun _ _ hr hn hc =>
    ⟨stst_agrees_with_blockCommand (f := encryptBlock) rfl hr hn hc (runCommands_encryptByHand hr hn hc) rfl,
      stst_agrees_with_blockCommand (f := decryptBlock) rfl hr hn hc (runCommands_decryptByHand hr hn hc) rfl⟩

end Sys2Proof.Machine
end

section
/-! Decoding undoes encoding (44_mode_sequencer R232): hexadecimal, the two strips and the block functions over a
payload, and with them the round trips of the text and the file commands, for every HASH, since both ends derive the
same key. A command whose checks all pass ends as its `Follows` statement says. -/

namespace Sys2Proof.Machine

open Sys2Proof

variable {s s' t : State} {d : List Byte} {i : Instr}

/-! ## The functions -/

/-- The character of a nibble is a digit of its value (44_mode_sequencer R214, R215). -/
theorem isDigit_hexDigit {v : Nat} (hv : v < 16) : IsDigit (hexDigit v) v := .inl (hexDigits_getElem? v hv)

/-- Decoding undoes encoding (44_mode_sequencer R232). -/
theorem hexDec_hexEnc (d : List Byte) : hexDec (hexEnc d) = some d := by
  induction d with
  | nil => rfl
  | cons v d ih =>
    have hv : 16 * (v.toNat / 16) + v.toNat % 16 = v.toNat := by omega
    rw [hexEnc_cons]
    exact hexDec_cons_cons.2 ⟨v.toNat / 16, v.toNat % 16, d, isDigit_hexDigit (by omega),
      isDigit_hexDigit (by omega), ih, by rw [hv, BitVec.ofNat_toNat, BitVec.setWidth_eq]⟩

/-- A padding is p bytes of value p, p from 1 to 16 (44_mode_sequencer R210). -/
theorem exists_padBytes_eq (d : List Byte) :
    ∃ p : Byte, 1 ≤ p.toNat ∧ p.toNat ≤ 16 ∧ padBytes d = d ++ List.replicate p.toNat p := by
  have hp : (BitVec.ofNat 8 (16 - d.length % 16)).toNat = 16 - d.length % 16 := by
    rw [BitVec.toNat_ofNat, Nat.mod_eq_of_lt (by omega)]
  exact ⟨BitVec.ofNat 8 (16 - d.length % 16), by omega, by omega, by rw [hp, padBytes]⟩

/-- The lenient strip undoes the padding, without a warning (44_mode_sequencer R232). -/
theorem unpadV_padBytes (d : List Byte) : unpadV (padBytes d) = (d, false) := by
  obtain ⟨p, h1, h16, hpad⟩ := exists_padBytes_eq d
  rw [hpad, unpadV_append_replicate h1 h16]

/-- The unconditional strip undoes the padding, whose last byte is not 0, under both corner cases
(44_mode_sequencer R232). -/
theorem unpadU_padBytes (corner : UnpadCorner) (d : List Byte) : unpadU corner (padBytes d) = d := by
  obtain ⟨p, h1, -, hpad⟩ := exists_padBytes_eq d
  obtain ⟨q, hq⟩ : ∃ q, p.toNat = q + 1 := ⟨p.toNat - 1, by omega⟩
  rw [hpad, hq, List.replicate_succ', ← List.append_assoc, unpadU_append_singleton corner h1, List.append_assoc,
    List.length_append, List.length_replicate, hq, Nat.add_assoc, Nat.add_sub_cancel, List.take_left]

/-- A padded payload is whole blocks (44_mode_sequencer R210). -/
theorem length_padBytes_mod (d : List Byte) : (padBytes d).length % 16 = 0 := by
  rw [length_padBytes, paddedLength]
  omega

/-- Settles O49: each function has its law. -/
theorem framingRoundTrips : Obligations.FramingRoundTrips := fun d =>
  ⟨hexDec_hexEnc d, unpadV_padBytes d, fun corner => unpadU_padBytes corner d⟩

/-- Decrypting the blocks of an encrypted payload of whole blocks (44_mode_sequencer R218). -/
theorem ecbDec_ecbEnc (hd : d.length % 16 = 0) (W : List KeyWord) (N : Nat) : ecbDec (ecbEnc d W N) W N = d := by
  obtain ⟨n, hn⟩ : ∃ n, d.length = 16 * n := ⟨d.length / 16, by omega⟩
  have hlen : (ecbEnc d W N).length / 16 = n := by rw [length_ecbEnc]; omega
  have hn' : d.length / 16 = n := by omega
  rw [ecbDec, hlen, ecbEnc, hn']
  clear hlen hn' hd
  induction n generalizing d with
  | zero =>
    obtain rfl := List.length_eq_zero_iff.1 hn
    rfl
  | succ n ih =>
    have hb : (d.take 16).length = 16 := by rw [List.length_take]; omega
    simp only [blocks, List.flatMap_cons]
    rw [List.take_left' (length_encryptBlock ..), List.drop_left' (length_encryptBlock ..),
      decryptBlock_encryptBlock hb, ih (by rw [List.length_drop]; omega), List.take_append_drop]

/-! ## Commands whose checks pass -/

/-- Checks that do not hold leave the rest of the list (60_exceptions R326). -/
theorem Checked.drop {l rest : List (Prop × Word32)} {P : State → Prop} (h : Checked s (l ++ rest) P t)
    (hl : l.Forall fun q => ¬ q.1) : Checked s rest P t := by
  induction l with
  | nil => exact h
  | cons q l ih =>
    obtain ⟨hq, hl⟩ := (List.forall_cons ..).1 hl
    exact ih (h.2 hq) hl

/-- A command whose checks all pass ends as its statement says. -/
theorem Follows.of_passed {checks : State → List (Prop × Word32)} {P : State → State → Prop} (h : Follows i checks P)
    (hl : (checks s).Forall fun q => ¬ q.1) : ∃ t, exec i s = .next t ∧ P s t := by
  obtain ⟨t, ht, hc⟩ := h s
  exact ⟨t, ht, Checked.drop (rest := []) (by rwa [List.append_nil]) hl⟩

/-- What a delivery of a payload that fits OLEN leaves to read (10_state R31). -/
theorem DeliversAndCloses.output {w : Bool} (h : DeliversAndCloses w d s t) (hd : d.length < 2 ^ 32) :
    Succeeded w t ∧ t.output = d := by
  obtain ⟨hok, hdel, -⟩ := h
  exact ⟨hok, output_of_delivers hdel hd⟩

/-- ILEN is the length of the input payload (00_scope R8). -/
theorem n_eq_of_input (h : s.input = d) : s.n = d.length := by rw [← input_length, h]

/-- KLEN is the length of the key payload (00_scope R8). -/
theorem kn_eq_of_key (h : s'.key = s.key) : s'.kn = s.kn := by rw [← key_length, h, key_length]

/-- Two states with the same parameters and the same passphrase derive the same key (44_mode_sequencer R217). -/
theorem deriveKey_eq (hp : s'.params = s.params) (hk : s'.key = s.key) (kb : Nat) :
    deriveKey s'.H s'.key kb = deriveKey s.H s.key kb := by
  rw [State.H, State.H, hp, hk]

/-! ## The round trips -/

/-- Settles O50: AESTD's checks pass on AESTE's output, and each of its functions undoes one of AESTE's. -/
theorem textRoundTrip : Obligations.TextRoundTrip := by
  intro s ks hp hks hk1 hk hn hcap
  obtain ⟨-, -, -, -, -, -, hte, -⟩ := aesteAndAesfeEncryptAPayload
  obtain ⟨-, -, -, htd⟩ := aestdDecryptsAText
  obtain ⟨-, -, -, hobuf, -⟩ := hp
  obtain ⟨t, ht, size, hsize, hdel, -⟩ :=
    (hte ks).of_passed (s := s) (by simp only [List.Forall, hks, not_false_eq_true, true_and]; omega)
  have hclen : (ecbEnc (padBytes s.input) (expandKey size (deriveKey s.H s.key size.bytes)) size.rounds).length =
      s.n + 16 - s.n % 16 := by
    rw [length_ecbEnc_padBytes, input_length, paddedLength]
  obtain ⟨hok, hout⟩ := hdel.output (by rw [length_hexEnc, hclen]; omega)
  refine ⟨t, ht, hok, fun s' hp' hn' hin hkey => ?_⟩
  rw [hout] at hin
  have hdec := (congrArg hexDec hin).trans (hexDec_hexEnc _)
  have hn2 : s'.n = 2 * (s.n + 16 - s.n % 16) := by rw [n_eq_of_input hin, length_hexEnc, hclen]
  have hkn := kn_eq_of_key hkey
  obtain ⟨u, hu, size', c, d, hsize', hc, hd, hvalid, hinvalid⟩ :=
    (htd ks).of_passed (s := s')
      (by simp only [List.Forall, hdec, hp', hks, reduceCtorEq, not_false_eq_true, true_and]; omega)
  obtain rfl := Option.some.inj (hsize.symm.trans hsize')
  obtain rfl := Option.some.inj (hdec.symm.trans hc)
  rw [deriveKey_eq hp' hkey, ecbDec_ecbEnc (length_padBytes_mod _), unpadU_padBytes] at hd
  subst hd
  exact ⟨u, hu, fun h => (hvalid h).output (by rw [input_length]; omega), hinvalid⟩

/-- A file is padded unless it is whole blocks and FILE_FULLBLOCK_PAD = 0 (44_mode_sequencer R211). -/
theorem padFile_of_padded {b : Bool} (h : d.length % 16 ≠ 0 ∨ b = true) : padFile b d = padBytes d := by
  obtain h | rfl := h
  · exact if_pos h
  · simp [padFile]

/-- The other case of `padFile` (44_mode_sequencer R211). -/
theorem padFile_of_whole (h : d.length % 16 = 0) : padFile false d = d := by
  simp [padFile, h]

theorem length_padFile_mod (b : Bool) (d : List Byte) : (padFile b d).length % 16 = 0 := by
  by_cases h : d.length % 16 ≠ 0 ∨ b = true
  · rw [padFile_of_padded h]
    exact length_padBytes_mod d
  · obtain ⟨h0, hb⟩ := not_or.1 h
    obtain rfl := Bool.eq_false_of_not_eq_true hb
    rw [padFile_of_whole (not_not.1 h0)]
    exact not_not.1 h0

/-- The lenient strip of a payload that ends in a valid padding loses it without a warning (44_mode_sequencer R212). -/
theorem unpadV_of_endsInPadding (h : EndsInPadding d) :
    ∃ p : Byte, d.getLast? = some p ∧ unpadV d = (d.take (d.length - p.toNat), false) := by
  obtain ⟨p, h1, h16, hle, hdrop⟩ := h
  have hd : d = d.take (d.length - p.toNat) ++ List.replicate p.toNat p := by rw [← hdrop, List.take_append_drop]
  refine ⟨p, ?_, ?_⟩
  · rw [hd, List.getLast?_append, List.getLast?_replicate, if_neg (by omega), Option.some_or]
  · conv_lhs => rw [hd]
    exact unpadV_append_replicate h1 h16

/-- Settles O51: AESFD's checks pass on AESFE's output, decryption gives the padded payload, and its lenient strip is
that of each case. -/
theorem fileRoundTrip : Obligations.FileRoundTrip := by
  intro s ks hp hks hk1 hk hn hcap
  obtain ⟨-, -, -, -, -, -, -, hfe⟩ := aesteAndAesfeEncryptAPayload
  obtain ⟨-, -, -, hfd⟩ := aesfdDecryptsAFile
  obtain ⟨-, -, -, hobuf, -⟩ := hp
  obtain ⟨t, ht, size, hsize, hdel, -⟩ :=
    (hfe ks).of_passed (s := s) (by simp only [List.Forall, hks, not_false_eq_true, true_and]; omega)
  have hmod := length_padFile_mod s.params.fileFullblockPad s.input
  have hclen : (ecbEnc (padFile s.params.fileFullblockPad s.input)
      (expandKey size (deriveKey s.H s.key size.bytes)) size.rounds).length =
      (padFile s.params.fileFullblockPad s.input).length := by
    rw [length_ecbEnc]
    omega
  obtain ⟨hok, hout⟩ := hdel.output (by rw [hclen]; omega)
  refine ⟨t, ht, hok, fun s' hp' hn' hin hkey => ?_⟩
  rw [hout] at hin
  have hn2 : s'.n = (padFile s.params.fileFullblockPad s.input).length := (n_eq_of_input hin).trans hclen
  have hkn := kn_eq_of_key hkey
  obtain ⟨u, hu, size', d, w, hsize', hd, hdel'⟩ := (hfd ks).of_passed (s := s')
    (by simp only [List.Forall, hp', hks, not_false_eq_true, true_and]; omega)
  obtain rfl := Option.some.inj (hsize.symm.trans hsize')
  rw [hin, deriveKey_eq hp' hkey, ecbDec_ecbEnc hmod] at hd
  have hends {r : List Byte × Bool} (hr : unpadV (padFile s.params.fileFullblockPad s.input) = r) :
      Succeeded r.2 u ∧ u.output = r.1 := by
    obtain ⟨rfl, rfl⟩ := Prod.mk.inj (hd.trans hr)
    exact hdel'.output (hr ▸ (length_unpadV_le _).trans_lt (by omega))
  refine ⟨u, hu, fun h => hends (r := (s.input, false)) ?_, fun h0 hb hno => hends (r := (s.input, true)) ?_,
    fun h0 hb hyes => ?_⟩
  · rw [padFile_of_padded (by rwa [input_length]), unpadV_padBytes]
  · rw [hb, padFile_of_whole (by rwa [input_length]), unpadV_of_not_endsInPadding hno]
  · obtain ⟨p, hlast, hstrip⟩ := unpadV_of_endsInPadding hyes
    rw [input_length] at hstrip
    exact ⟨p, hlast, hends (r := (_, false)) (by rw [hb, padFile_of_whole (by rwa [input_length]), hstrip])⟩

end Sys2Proof.Machine
end

section
/-! The keystream laws (46_legacy_keystream R298): the XOR undoes itself, so each cipher of the keystream is undone by
its partner, for every HASH. -/

namespace Sys2Proof.Machine

open Sys2Proof

variable {s s' t : State} {d : List Byte}

/-! ## The functions -/

/-- The XOR with the same keystream undoes itself (46_legacy_keystream R298). -/
theorem ksXor_ksXor (H : List Byte → Digest) (c : Nat) (d seed : List Byte) :
    ksXor H c (ksXor H c d seed) seed = d := by
  have hlen : (keystream H c seed d.length).length = d.length := length_keystream ..
  rw [ksXor, length_ksXor, ksXor]
  generalize keystream H c seed d.length = k at hlen
  induction d generalizing k with
  | nil => rfl
  | cons v d ih =>
    obtain ⟨u, k, rfl⟩ := List.exists_cons_of_length_eq_add_one hlen
    rw [List.zipWith_cons_cons, List.zipWith_cons_cons, ih k (Nat.succ.inj hlen), BitVec.xor_assoc, BitVec.xor_self,
      BitVec.xor_zero]

/-- A shorter keystream is the beginning of a longer one (46_legacy_keystream R298). -/
theorem keystream_eq_take (H : List Byte → Digest) (c : Nat) (seed : List Byte) {m n : Nat} (h : m ≤ n) :
    keystream H c seed m = (keystream H c seed n).take m := by
  refine List.ext_getElem? fun j => ?_
  by_cases hj : j < m
  · rw [List.getElem?_take_of_lt hj, keystream_getElem? H c seed hj, keystream_getElem? H c seed (by omega)]
  · rw [List.getElem?_eq_none (by simp; omega), List.getElem?_eq_none (by simp; omega)]

/-! ## The commands -/

/-- What a delivery of a payload that fits OLEN leaves to read (10_state R31). -/
theorem DeliversOnly.output {w : Bool} (h : DeliversOnly w d s t) (hd : d.length < 2 ^ 32) :
    Succeeded w t ∧ t.output = d := by
  obtain ⟨hok, hdel, -⟩ := h
  exact ⟨hok, output_of_delivers hdel hd⟩

/-- The XOR of two states with the same parameters and the same seed (46_legacy_keystream R292). -/
theorem ksXor_eq (hp : s'.params = s.params) (hk : s'.key = s.key) (d : List Byte) :
    ksXor s'.H s'.params.ksCtrInit d s'.key = ksXor s.H s.params.ksCtrInit d s.key := by
  rw [State.H, State.H, hp, hk]

/-- Settles O60: the XOR undoes itself under the same seed, and the checks pass on the output. -/
theorem keystreamRoundTrips : Obligations.KeystreamRoundTrips := by
  obtain ⟨-, -, -, -, -, hte, htd, hb⟩ := keystreamCommandsDeliver
  have hxor (s : State) : (ksXor s.H s.params.ksCtrInit s.input s.key).length = s.n := by
    rw [length_ksXor, input_length]
  refine ⟨ksXor_ksXor, fun H c m n seed => keystream_eq_take H c seed, fun s hp hk1 hk hn hcap => ?kstd,
    fun s hp hk1 hk hn hcap => ?ksb⟩
  case kstd =>
    obtain ⟨-, -, -, hobuf, -⟩ := hp
    obtain ⟨t, ht, hdel, -⟩ := hte.of_passed (s := s) (by simp only [List.Forall]; omega)
    obtain ⟨hok, hout⟩ := hdel.output (by rw [length_hexEnc, hxor]; omega)
    refine ⟨t, ht, hok, fun s' hp' hn' hin hkey => ?_⟩
    rw [hout] at hin
    have hdec := (congrArg hexDec hin).trans (hexDec_hexEnc _)
    have hn2 : s'.n = 2 * s.n := by rw [n_eq_of_input hin, length_hexEnc, hxor]
    have hkn := kn_eq_of_key hkey
    have hxx := (ksXor_eq hp' hkey (ksXor s.H s.params.ksCtrInit s.input s.key)).trans (ksXor_ksXor ..)
    obtain ⟨u, hu, hc⟩ := htd s'
    obtain ⟨hbad, hgood⟩ := Checked.drop (l := [_, _, _, _]) (rest := [_]) hc
      (by simp only [List.Forall, hdec, hp', reduceCtorEq, not_false_eq_true, and_true]; omega)
    refine ⟨u, hu, fun h => ?_, fun h => hbad ⟨_, hdec, by rwa [hxx]⟩⟩
    obtain ⟨c, hc', hdel', -⟩ := hgood (by simp [hdec, hxx, h])
    obtain rfl := Option.some.inj (hdec.symm.trans hc')
    rw [hxx] at hdel'
    exact hdel'.output (by rw [input_length]; omega)
  case ksb =>
    obtain ⟨-, -, -, hobuf, -⟩ := hp
    obtain ⟨t, ht, hdel, -⟩ := hb.of_passed (s := s) (by simp only [List.Forall]; omega)
    obtain ⟨hok, hout⟩ := hdel.output (by rw [hxor]; omega)
    refine ⟨t, ht, hok, fun s' hp' hin hkey => ?_⟩
    rw [hout] at hin
    have hn2 : s'.n = s.n := (n_eq_of_input hin).trans (hxor s)
    have hkn := kn_eq_of_key hkey
    obtain ⟨u, hu, hdel', -⟩ := hb.of_passed (s := s') (by simp only [List.Forall, hp']; omega)
    rw [ksXor_eq hp' hkey, hin, ksXor_ksXor] at hdel'
    exact ⟨u, hu, hdel'.output (by rw [input_length]; omega)⟩

end Sys2Proof.Machine
end

section
/-! The laws of the Caesar and Vigenere ciphers (45_legacy_caesar_vigenere R272). Shifts of a letter add up, modulo 26,
and keep its case; so shifts undo each other, the cursor of the text mode moves alike over a text and its cipher, and no
byte leaves or enters the one-byte row of the UTF-8 table. -/

namespace Sys2Proof.Machine

open Sys2Proof

variable {v w : Byte} {d d' ck k : List Byte} {m n : Int} {sign : Int}

/-! ## One letter -/

/-- A shift keeps the case of a letter, and what is no letter (45_legacy_caesar_vigenere R261). -/
theorem case_shiftLetter (v : Byte) (m : Int) :
    (isUpper (shiftLetter v m) ↔ isUpper v) ∧ (isLower (shiftLetter v m) ↔ isLower v) := by
  obtain ⟨hu, hl, hn⟩ := shiftLetter_toNat v m
  by_cases h : isUpper v
  · have := hu h
    omega
  · by_cases h' : isLower v
    · have := hl h'
      omega
    · rw [hn h h']
      exact ⟨Iff.rfl, Iff.rfl⟩

/-- A shift of a letter is a letter (45_legacy_caesar_vigenere R261). -/
theorem letter_shiftLetter (v : Byte) (m : Int) :
    isUpper (shiftLetter v m) ∨ isLower (shiftLetter v m) ↔ isUpper v ∨ isLower v :=
  or_congr (case_shiftLetter v m).1 (case_shiftLetter v m).2

/-- The byte that R261 describes is the only one (45_legacy_caesar_vigenere R261). -/
theorem eq_shiftLetter (hu : isUpper v → (w.toNat : Int) = 0x41 + ((v.toNat : Int) - 0x41 + m) % 26)
    (hl : isLower v → (w.toNat : Int) = 0x61 + ((v.toNat : Int) - 0x61 + m) % 26)
    (hn : ¬ isUpper v → ¬ isLower v → w = v) : w = shiftLetter v m := by
  obtain ⟨hu', hl', hn'⟩ := shiftLetter_toNat v m
  by_cases h : isUpper v
  · exact BitVec.eq_of_toNat_eq (Int.ofNat.inj ((hu h).trans (hu' h).symm))
  · by_cases h' : isLower v
    · exact BitVec.eq_of_toNat_eq (Int.ofNat.inj ((hl h').trans (hl' h').symm))
    · exact (hn h h').trans (hn' h h').symm

/-- A letter's shift matters modulo 26 (45_legacy_caesar_vigenere R261). -/
theorem shiftLetter_congr (h : m % 26 = n % 26) (v : Byte) : shiftLetter v m = shiftLetter v n := by
  obtain ⟨hu, hl, hn⟩ := shiftLetter_toNat v m
  exact eq_shiftLetter (fun hv => by have := hu hv; omega) (fun hv => by have := hl hv; omega) hn

/-- No shift (45_legacy_caesar_vigenere R261). -/
theorem shiftLetter_zero (v : Byte) : shiftLetter v 0 = v :=
  (eq_shiftLetter (fun hv => by omega) (fun hv => by omega) fun _ _ => rfl).symm

/-- Shifts add up (45_legacy_caesar_vigenere R272). -/
theorem shiftLetter_shiftLetter (v : Byte) (m n : Int) : shiftLetter (shiftLetter v m) n = shiftLetter v (m + n) := by
  obtain ⟨hu, hl, hn⟩ := shiftLetter_toNat v m
  obtain ⟨hu', hl', hn'⟩ := shiftLetter_toNat (shiftLetter v m) n
  obtain ⟨hup, hlo⟩ := case_shiftLetter v m
  rw [hup] at hu' hn'
  rw [hlo] at hl' hn'
  exact eq_shiftLetter (fun hv => by have := hu hv; have := hu' hv; omega)
    (fun hv => by have := hl hv; have := hl' hv; omega) fun h h' => (hn' h h').trans (hn h h')

/-- Shifting back (45_legacy_caesar_vigenere R272). -/
theorem shiftLetter_neg (v : Byte) (m : Int) : shiftLetter (shiftLetter v m) (-m) = v := by
  rw [shiftLetter_shiftLetter, Int.add_right_neg, shiftLetter_zero]

/-! ## The Caesar rotation -/

theorem caesar_neg (d : List Byte) (m : Int) : caesar (caesar d m) (-m) = d := by
  rw [caesar, caesar, List.map_map]
  exact List.map_id'' (fun v => shiftLetter_neg v m) d

theorem caesar_congr (h : m % 26 = n % 26) (d : List Byte) : caesar d m = caesar d n :=
  List.map_congr_left fun v _ => shiftLetter_congr h v

theorem caesar_zero (d : List Byte) : caesar d 0 = d := List.map_id'' shiftLetter_zero d

/-! ## The Vigenere transforms -/

/-- The text mode on a letter moves the cursor, whatever the shift of its own key position
(45_legacy_caesar_vigenere R266). -/
theorem vigTextFrom_cons (ck : List Byte) (sign : Int) (j : Nat) (v : Byte) (d : List Byte) :
    vigTextFrom ck sign j (v :: d) = shiftLetter v (sign * keyShift ck j) ::
      vigTextFrom ck sign (if isUpper v ∨ isLower v then j + 1 else j) d := by
  rw [vigTextFrom]
  by_cases hv : isUpper v ∨ isLower v
  · rw [if_pos hv, if_pos hv]
  · rw [if_neg hv, if_neg hv, shiftLetter_of_not_letter (fun h => hv (.inl h)) fun h => hv (.inr h)]

/-- The text mode with the opposite sign, from the same cursor (45_legacy_caesar_vigenere R272). -/
theorem vigTextFrom_neg (ck : List Byte) (sign : Int) (j : Nat) (d : List Byte) :
    vigTextFrom ck (-sign) j (vigTextFrom ck sign j d) = d := by
  induction d generalizing j with
  | nil => rfl
  | cons v d ih =>
    simp only [vigTextFrom_cons, letter_shiftLetter, ih, Int.neg_mul, shiftLetter_neg]

/-- A byte moved by x and back, modulo 256 (45_legacy_caesar_vigenere R269). -/
theorem ofInt_ofInt_neg (v : Byte) (x : Int) : BitVec.ofInt 8 ((BitVec.ofInt 8 (v.toNat + x)).toNat + -x) = v := by
  have hmoved := byte_ofInt_toNat (v.toNat + x)
  have hback := byte_ofInt_toNat ((BitVec.ofInt 8 (v.toNat + x)).toNat + -x)
  exact BitVec.eq_of_toNat_eq (by omega)

/-- The binary mode with the opposite sign, from the same index (45_legacy_caesar_vigenere R272). -/
theorem vigBinFrom_neg (ck : List Byte) (sign : Int) (j : Nat) (d : List Byte) :
    vigBinFrom ck (-sign) j (vigBinFrom ck sign j d) = d := by
  induction d generalizing j with
  | nil => rfl
  | cons v d ih =>
    rw [vigBinFrom, vigBinFrom, ih, Int.neg_mul, ofInt_ofInt_neg]

/-- What is no letter does not change how the letters are moved (45_legacy_caesar_vigenere R272). -/
theorem filter_vigTextFrom (ck : List Byte) (sign : Int) (j : Nat) (d : List Byte) :
    (vigTextFrom ck sign j d).filter (fun v => decide (isUpper v ∨ isLower v)) =
      vigTextFrom ck sign j (d.filter fun v => decide (isUpper v ∨ isLower v)) := by
  induction d generalizing j with
  | nil => rfl
  | cons v d ih =>
    rw [vigTextFrom_cons]
    by_cases hv : isUpper v ∨ isLower v
    · rw [List.filter_cons_of_pos (by simpa [letter_shiftLetter] using hv),
        List.filter_cons_of_pos (by simpa using hv), vigTextFrom_cons, ih]
    · rw [List.filter_cons_of_neg (by simpa [letter_shiftLetter] using hv),
        List.filter_cons_of_neg (by simpa using hv), if_neg hv, ih]

/-! ## The cleaned key -/

/-- The upper case of a lower-case letter (45_legacy_caesar_vigenere R264). -/
theorem isUpper_sub_of_isLower (h : isLower v) : isUpper (v - 0x20#8) := by
  have hsub := BitVec.toNat_sub v 0x20#8
  have h20 : (0x20#8).toNat = 0x20 := rfl
  omega

/-- A cleaned key is upper case (45_legacy_caesar_vigenere R264). -/
theorem isUpper_of_mem_cleanKey (h : v ∈ cleanKey k) : isUpper v := by
  obtain ⟨u, -, hu⟩ := List.mem_filterMap.1 h
  split_ifs at hu with h1 h2
  · cases hu
    exact h1
  · cases hu
    exact isUpper_sub_of_isLower h2

/-- Cleaning again changes nothing (45_legacy_caesar_vigenere R272). -/
theorem cleanKey_cleanKey (k : List Byte) : cleanKey (cleanKey k) = cleanKey k := by
  have h : ∀ v ∈ cleanKey k,
      (if isUpper v then some v else if isLower v then some (v - 0x20#8) else none) = some v :=
    fun v hv => if_pos (isUpper_of_mem_cleanKey hv)
  rw [cleanKey, List.filterMap_congr h, List.filterMap_some]

/-! ## UTF-8 validity -/

/-- Both bytes are below 0x80, or they are one byte: no row of the UTF-8 table tells them apart. -/
def SameUtf8 (v w : Byte) : Prop := v = w ∨ (v.toNat < 0x80 ∧ w.toNat < 0x80)

theorem sameUtf8_shiftLetter (v : Byte) (m : Int) : SameUtf8 v (shiftLetter v m) := by
  obtain ⟨hu, hl, hn⟩ := shiftLetter_toNat v m
  by_cases h : isUpper v
  · have := hu h
    exact .inr (by omega)
  · by_cases h' : isLower v
    · have := hl h'
      exact .inr (by omega)
    · exact .inl (hn h h').symm

/-- A range of the table holds all bytes below 0x80 or none (44_mode_sequencer R216). -/
theorem utf8Rows_range : ∀ row ∈ utf8Rows, ∀ r ∈ row, r = (0x00, 0x7F) ∨ 0x80 ≤ r.1 := by decide

/-- A sequence that matches a row still does when each byte is replaced by one that the table does not tell apart. -/
theorem afterRow_of_sameUtf8 {row : List (Nat × Nat)} {rest : List Byte}
    (hrow : ∀ r ∈ row, r = (0x00, 0x7F) ∨ 0x80 ≤ r.1) (h : afterRow row d = some rest)
    (hd : List.Forall₂ SameUtf8 d d') : ∃ rest', afterRow row d' = some rest' ∧ List.Forall₂ SameUtf8 rest rest' := by
  induction row generalizing d d' with
  | nil =>
    cases h
    exact ⟨d', rfl, hd⟩
  | cons r row ih =>
    obtain ⟨hr, hrow⟩ := List.forall_mem_cons.1 hrow
    cases hd with
    | nil => cases h
    | @cons v w d d' hvw hd =>
      by_cases hv : r.1 ≤ v.toNat ∧ v.toNat ≤ r.2
      · have hw : r.1 ≤ w.toNat ∧ w.toNat ≤ r.2 := by
          obtain rfl | hlt := hvw
          · exact hv
          · obtain rfl | hr := hr <;> omega
        rw [afterRow, if_pos hv] at h
        obtain ⟨rest', h', hrest⟩ := ih hrow h hd
        exact ⟨rest', by rw [afterRow, if_pos hw, h'], hrest⟩
      · rw [afterRow, if_neg hv] at h
        cases h

theorem utf8Seqs_of_sameUtf8 {fuel : Nat} (h : utf8Seqs fuel d = true) (hd : List.Forall₂ SameUtf8 d d') :
    utf8Seqs fuel d' = true := by
  induction fuel generalizing d d' with
  | zero =>
    cases hd with
    | nil => rfl
    | cons => cases h
  | succ fuel ih =>
    cases hd with
    | nil => rfl
    | cons hvw hd =>
      obtain ⟨row, hrow, rest, hafter, hrest⟩ := utf8Seqs_cons_iff.1 h
      obtain ⟨rest', hafter', hrest'⟩ := afterRow_of_sameUtf8 (utf8Rows_range row hrow) hafter (.cons hvw hd)
      exact utf8Seqs_cons_iff.2 ⟨row, hrow, rest', hafter', ih hrest hrest'⟩

/-- Validity does not tell such sequences apart (44_mode_sequencer R216). -/
theorem utf8Valid_of_sameUtf8 (h : utf8Valid d = true) (hd : List.Forall₂ SameUtf8 d d') : utf8Valid d' = true := by
  rw [utf8Valid] at h ⊢
  rw [← hd.length_eq]
  exact utf8Seqs_of_sameUtf8 h hd

theorem sameUtf8_caesar (d : List Byte) (m : Int) : List.Forall₂ SameUtf8 d (caesar d m) :=
  List.forall₂_map_right_iff.2 (List.forall₂_same.2 fun v _ => sameUtf8_shiftLetter v m)

theorem sameUtf8_vigTextFrom (ck : List Byte) (sign : Int) (j : Nat) (d : List Byte) :
    List.Forall₂ SameUtf8 d (vigTextFrom ck sign j d) := by
  induction d generalizing j with
  | nil => exact .nil
  | cons v d ih =>
    rw [vigTextFrom_cons]
    exact .cons (sameUtf8_shiftLetter ..) (ih _)

/-- Settles O56: each cipher has its law, read off the laws of one letter. -/
theorem legacyCiphersUndoThemselves : Obligations.LegacyCiphersUndoThemselves :=
  ⟨fun d k => ⟨caesar_neg d k, caesar_congr (by omega) d, (caesar_congr (n := 0) (by decide) d).trans (caesar_zero d)⟩,
    fun d k _ => ⟨vigTextFrom_neg _ 1 0 d, vigBinFrom_neg _ 1 0 d⟩, cleanKey_cleanKey,
    fun d ck _ sign => filter_vigTextFrom ck sign 0 d,
    fun d k h => utf8Valid_of_sameUtf8 h (sameUtf8_caesar d k),
    fun d ck sign _ h => utf8Valid_of_sameUtf8 h (sameUtf8_vigTextFrom ck sign 0 d)⟩

end Sys2Proof.Machine
end
